-- ==== Sys2Proof/Word.lean ====
section
/-! DEFINITION. The two word types of the engine: 8-bit data and 16-bit addresses (spec R5, R6). -/

namespace Sys2Proof

/-- An 8-bit value: every register but PC, every memory byte and stack cell (spec R5, data width). -/
abbrev Byte := BitVec 8

/-- A 16-bit value: PC, HL and every memory address (spec R5, address width). -/
abbrev Word := BitVec 16

end Sys2Proof
end

