-- ==== Sys2Proof/Syntax.lean ====
section
/-! DEFINITION. The instruction set as syntax: one constructor for each instruction rule of spec files 41 to
48, its operands in the forms of spec R94 and R95. -/

namespace Sys2Proof

/-- The 8-bit registers an operand can name (spec R31 to R33). -/
inductive Reg8 where
  | a
  | b
  | c
  | h
  | l
  deriving DecidableEq, Repr

/-- An 8-bit source operand (spec R95). Which forms a mnemonic takes is `Instr.wf`. -/
inductive Src8 where
  /-- a register -/
  | reg (r : Reg8)
  /-- imm8, one operand byte -/
  | imm (v : Byte)
  /-- (a16), an absolute address in two operand bytes -/
  | abs (a : Word)
  /-- (HL), the byte HL addresses -/
  | hlInd
  /-- (L), the byte L addresses in page 0 -/
  | lInd
  /-- the stack-frame slot at BP + d - 1, one operand byte d -/
  | frame (d : Byte)
  deriving DecidableEq, Repr

/-- An 8-bit destination operand (spec R95): the source forms but for imm8, which is "never a
destination". -/
inductive Loc8 where
  | reg (r : Reg8)
  | abs (a : Word)
  | hlInd
  | lInd
  | frame (d : Byte)
  deriving DecidableEq, Repr

/-- The operand of PUSH (spec R280). -/
inductive PushSrc where
  | reg (r : Reg8)
  | bp
  | flags
  | imm (v : Byte)
  deriving DecidableEq, Repr

/-- The operand of POP (spec R281). -/
inductive PopDst where
  | reg (r : Reg8)
  | bp
  | flags
  deriving DecidableEq, Repr

/-- The four predicates of JEXT, in the order of its mode field (spec R267). -/
inductive JextMode where
  | anySet
  | allSet
  | allClear
  | anyClear
  deriving DecidableEq, Repr

/-- An instruction. Each row of spec/opcode_table.json is one constructor with one operand form. -/
inductive Instr where
  /-- HALT (R301) -/
  | halt
  /-- NOOP (R300) -/
  | noop
  /-- EI (R302) -/
  | ei
  /-- DI (R303) -/
  | di
  /-- ET (R304) -/
  | et
  /-- DT (R305) -/
  | dt
  /-- RESET (R306) -/
  | reset
  /-- an opcode with no handler (R307), by its opcode byte -/
  | unassigned (op : Byte)
  /-- JMP a16 (R260) -/
  | jmp (target : Word)
  /-- JZ a16 (R261) -/
  | jz (target : Word)
  /-- JNZ a16 (R262) -/
  | jnz (target : Word)
  /-- JS a16 (R263) -/
  | js (target : Word)
  /-- JNS a16 (R264) -/
  | jns (target : Word)
  /-- JC a16 (R265) -/
  | jc (target : Word)
  /-- JNC a16 (R266) -/
  | jnc (target : Word)
  /-- JEXT m8, a16 (R267): the mode and the mask are the two fields of m8 -/
  | jext (mode : JextMode) (mask : BitVec 6) (target : Word)
  /-- CALL a16 (R268) -/
  | call (target : Word)
  /-- RET (R269) -/
  | ret
  /-- RET n8, the mnemonic RET_I (R270) -/
  | retI (n : Byte)
  /-- ENTER n8 (R282) -/
  | enter (n : Byte)
  /-- LEAVE (R283) -/
  | leave
  /-- LDHL_I16 imm16 (R164) -/
  | ldhlI16 (v : Word)
  /-- ADDHL_I16 imm16 (R165) -/
  | addhlI16 (v : Word)
  /-- ADDL_I8 imm8 (R166) -/
  | addlI8 (v : Byte)
  /-- PUSH (R280) -/
  | push (o : PushSrc)
  /-- POP (R281) -/
  | pop (o : PopDst)
  /-- LOAD (R160) -/
  | load (o : Src8)
  /-- STORE (R162) -/
  | store (o : Loc8)
  /-- XCH (R163) -/
  | xch (o : Loc8)
  /-- CLRA, assembler text LOAD 0 (R161) -/
  | clra
  /-- ADD (R180) -/
  | add (o : Src8)
  /-- ADC (R181) -/
  | adc (o : Src8)
  /-- SUB (R182) -/
  | sub (o : Src8)
  /-- SBC (R183) -/
  | sbc (o : Src8)
  /-- AND (R184) -/
  | and (o : Src8)
  /-- OR (R185) -/
  | or (o : Src8)
  /-- XOR (R186) -/
  | xor (o : Src8)
  /-- CMP (R187) -/
  | cmp (o : Src8)
  /-- MIN (R224) -/
  | min (o : Src8)
  /-- MAX (R225) -/
  | max (o : Src8)
  /-- SHL (R220) -/
  | shl (o : Src8)
  /-- SHR (R221) -/
  | shr (o : Src8)
  /-- ROL (R222) -/
  | rol (o : Src8)
  /-- ROR (R223) -/
  | ror (o : Src8)
  /-- INC, 8-bit (R200) -/
  | inc (o : Loc8)
  /-- INC HL (R201) -/
  | incHL
  /-- DEC, 8-bit (R202) -/
  | dec (o : Loc8)
  /-- DEC HL (R203) -/
  | decHL
  /-- NEG, 8-bit (R204) -/
  | neg (o : Loc8)
  /-- NEG HL (R205) -/
  | negHL
  /-- NOT, 8-bit (R206) -/
  | not (o : Loc8)
  /-- NOT HL (R207) -/
  | notHL
  /-- ADDW (R240) -/
  | addw (o : Src8)
  /-- SUBW (R241) -/
  | subw (o : Src8)
  /-- MULW (R242) -/
  | mulw (o : Src8)
  /-- DIVW (R243) -/
  | divw (o : Src8)
  deriving DecidableEq, Repr

end Sys2Proof
end

