-- ==== Sys2Proof/WellFormed.lean ====
section
/-! DEFINITION. Which operand forms exist for each instruction (spec R94, R98, R124 and the Operands lines
of files 41 to 48). An ill-formed term has no encoding and no byte sequence decodes to it. -/

namespace Sys2Proof

/-- The operand surface of the accumulator ALU, MIN and MAX: A B C H L, imm8, (HL), (L), the frame slot
(spec R180, R224). There is no (a16) form. -/
def Src8.okAlu : Src8 → Bool
  | .abs _ => false
  | .reg _ | .imm _ | .hlInd | .lInd | .frame _ => true

/-- The operand surface of the shifts and rotates: the ALU's without the bare accumulator
(spec R220, C2). -/
def Src8.okShift : Src8 → Bool
  | .reg .a => false
  | o => o.okAlu

/-- The operand surface of LOAD: B C H L, imm8, (a16), (HL), (L), the frame slot (spec R160). -/
def Src8.okLoad : Src8 → Bool
  | .reg .a => false
  | _ => true

/-- The operand surface of the wide family: A B C, imm8 (spec R240 to R243). -/
def Src8.okWide : Src8 → Bool
  | .reg .a | .reg .b | .reg .c | .imm _ => true
  | .reg .h | .reg .l | .abs _ | .hlInd | .lInd | .frame _ => false

/-- The operand surface of XCH: B C H L, (a16), (HL), (L), the frame slot (spec R163). -/
def Loc8.okXch : Loc8 → Bool
  | .reg .a => false
  | _ => true

/-- The operand surface of STORE: that of XCH without the frame slot (spec R162, C6). -/
def Loc8.okStore : Loc8 → Bool
  | .frame _ => false
  | o => o.okXch

/-- The operand surface of the 8-bit unary instructions: A B C H L, (HL), (L), the frame slot
(spec R200). There is no (a16) form. -/
def Loc8.okUnary : Loc8 → Bool
  | .abs _ => false
  | .reg _ | .hlInd | .lInd | .frame _ => true

/-- The 19 unassigned opcodes (spec R98). -/
def unassignedOpcodes : List Byte :=
  [0x07, 0x27, 0x35, 0x3D, 0x90, 0x98, 0xA0, 0xA8, 0xE5, 0xE6, 0xE7,
   0xF8, 0xF9, 0xFA, 0xFB, 0xFC, 0xFD, 0xFE, 0xFF]

/-- A well-formed instruction: its operand form is one the spec gives its mnemonic. -/
def Instr.wf : Instr → Bool
  | .unassigned op => unassignedOpcodes.contains op
  | .load o => o.okLoad
  | .store o => o.okStore
  | .xch o => o.okXch
  | .add o | .adc o | .sub o | .sbc o | .and o | .or o | .xor o | .cmp o | .min o | .max o => o.okAlu
  | .shl o | .shr o | .rol o | .ror o => o.okShift
  | .inc o | .dec o | .neg o | .not o => o.okUnary
  | .addw o | .subw o | .mulw o | .divw o => o.okWide
  | .push _ | .pop _ => true
  | .halt | .noop | .ei | .di | .et | .dt | .reset => true
  | .jmp _ | .jz _ | .jnz _ | .js _ | .jns _ | .jc _ | .jnc _ | .jext _ _ _ => true
  | .call _ | .ret | .retI _ | .enter _ | .leave => true
  | .ldhlI16 _ | .addhlI16 _ | .addlI8 _ | .clra => true
  | .incHL | .decHL | .negHL | .notHL => true

end Sys2Proof
end

