-- ==== Sys2Proof/Decode.lean ====
section
/-! DEFINITION. The byte-order helpers, the decoder of spec R91 to R99, the length function of spec R97, and
the encoder written from the same tables. -/

namespace Sys2Proof

/-- `hi:lo`, the 16-bit value of two bytes (spec R7). -/
def joinBytes (hi lo : Byte) : Word := hi ++ lo

/-- Bits 15 to 8 (spec R6). -/
def hiByte (w : Word) : Byte := w.extractLsb' 8 8

/-- Bits 7 to 0 (spec R6). -/
def loByte (w : Word) : Byte := w.extractLsb' 0 8

/-- `zext_16(v)` (spec R7). -/
def zext16 (v : Byte) : Word := v.setWidth 16

/-! ## Operand selectors (spec R94) -/

/-- The register that selectors 0 to 4 name: 0 A, 1 B, 2 C, 3 H, 4 L (spec R94). -/
def selReg : Nat → Reg8
  | 0 => .a
  | 1 => .b
  | 2 => .c
  | 3 => .h
  | _ => .l

/-- The selector column "ALU rows" of spec R94, with operand byte `b1`. -/
def aluOperand (sel : Nat) (b1 : Byte) : Src8 :=
  match sel with
  | 5 => .imm b1
  | 6 => .hlInd
  | 7 => .lInd
  | n => .reg (selReg n)

/-- The operand of the wide family, `s = opcode[1:0]` (spec R92). -/
def wideOperand (s : Nat) (b1 : Byte) : Src8 :=
  match s with
  | 3 => .imm b1
  | n => .reg (selReg n)

/-- The mode of JEXT's m8 byte, bits 7:6 (spec R267). -/
def jextMode (m : Byte) : JextMode :=
  match m.toNat / 64 with
  | 0 => .anySet
  | 1 => .allSet
  | 2 => .allClear
  | _ => .anyClear

/-- A row of the shift family: selector 0 is unassigned (spec R94, R98). -/
def shiftRow (mk : Src8 → Instr) (op : Byte) (sel : Nat) (b1 : Byte) : Instr :=
  match sel with
  | 0 => .unassigned op
  | n => mk (aluOperand n b1)

/-- A row of the unary family: selector 5 is the HL form (spec R94). -/
def unaryRow (mk : Loc8 → Instr) (hlForm : Instr) (sel : Nat) : Instr :=
  match sel with
  | 5 => hlForm
  | 6 => mk .hlInd
  | 7 => mk .lInd
  | n => mk (.reg (selReg n))

/-- The rows STORE and XCH: selector 0 is (a16), selector 5 is unassigned (spec R94, R98, C7). -/
def dataRow (mk : Loc8 → Instr) (op : Byte) (sel : Nat) (a16 : Word) : Instr :=
  match sel with
  | 0 => mk (.abs a16)
  | 5 => .unassigned op
  | 6 => mk .hlInd
  | 7 => mk .lInd
  | n => mk (.reg (selReg n))

/-! ## The opcode map (spec R96), by `row = opcode[7:3]` and `sel = opcode[2:0]` (spec R92) -/

/-- Row 0x00: system instructions. -/
def systemRow (op : Byte) (sel : Nat) : Instr :=
  match sel with
  | 0 => .halt
  | 1 => .noop
  | 2 => .ei
  | 3 => .di
  | 4 => .et
  | 5 => .dt
  | 6 => .reset
  | _ => .unassigned op

/-- Row 0x08: jumps, a16 in bytes 1 and 2, and JEXT with m8 in byte 1 and a16 in bytes 2 and 3
(spec R91, R93). -/
def jumpRow (sel : Nat) (b1 b2 b3 : Byte) : Instr :=
  match sel with
  | 0 => .jmp (joinBytes b1 b2)
  | 1 => .jz (joinBytes b1 b2)
  | 2 => .jnz (joinBytes b1 b2)
  | 3 => .js (joinBytes b1 b2)
  | 4 => .jns (joinBytes b1 b2)
  | 5 => .jc (joinBytes b1 b2)
  | 6 => .jnc (joinBytes b1 b2)
  | _ => .jext (jextMode b1) (b1.extractLsb' 0 6) (joinBytes b2 b3)

/-- Row 0x10: calls, frames and the synthetic address instructions. -/
def callRow (sel : Nat) (b1 b2 : Byte) : Instr :=
  match sel with
  | 0 => .call (joinBytes b1 b2)
  | 1 => .ret
  | 2 => .retI b1
  | 3 => .enter b1
  | 4 => .leave
  | 5 => .ldhlI16 (joinBytes b1 b2)
  | 6 => .addhlI16 (joinBytes b1 b2)
  | _ => .addlI8 b1

/-- Row 0x18: PUSH. -/
def pushRow (sel : Nat) (b1 : Byte) : Instr :=
  match sel with
  | 5 => .push .bp
  | 6 => .push .flags
  | 7 => .push (.imm b1)
  | n => .push (.reg (selReg n))

/-- Row 0x20: POP, selector 7 is unassigned. -/
def popRow (op : Byte) (sel : Nat) : Instr :=
  match sel with
  | 5 => .pop .bp
  | 6 => .pop .flags
  | 7 => .unassigned op
  | n => .pop (.reg (selReg n))

/-- Row 0x28: LOAD, selector 0 is (a16). -/
def loadRow (sel : Nat) (b1 b2 : Byte) : Instr :=
  match sel with
  | 0 => .load (.abs (joinBytes b1 b2))
  | n => .load (aluOperand n b1)

/-- Rows 0xD0 and 0xD8 and the first half of 0xE0: the frame-slot forms, by `opcode - 0xD0`, then LOAD
and XCH with a frame slot, CLRA, and three unassigned opcodes. -/
def frameRow (op : Byte) (k : Nat) (d : Byte) : Instr :=
  match k with
  | 0 => .add (.frame d)
  | 1 => .adc (.frame d)
  | 2 => .sub (.frame d)
  | 3 => .sbc (.frame d)
  | 4 => .and (.frame d)
  | 5 => .or (.frame d)
  | 6 => .xor (.frame d)
  | 7 => .cmp (.frame d)
  | 8 => .min (.frame d)
  | 9 => .max (.frame d)
  | 10 => .shl (.frame d)
  | 11 => .shr (.frame d)
  | 12 => .rol (.frame d)
  | 13 => .ror (.frame d)
  | 14 => .inc (.frame d)
  | 15 => .dec (.frame d)
  | 16 => .neg (.frame d)
  | 17 => .not (.frame d)
  | 18 => .load (.frame d)
  | 19 => .xch (.frame d)
  | 20 => .clra
  | _ => .unassigned op

/-- Rows 0xE8 and 0xF0: the wide family, `j = (opcode - 0xE8) >> 2` (spec R92). -/
def wideRow (j s : Nat) (b1 : Byte) : Instr :=
  match j with
  | 0 => .addw (wideOperand s b1)
  | 1 => .subw (wideOperand s b1)
  | 2 => .mulw (wideOperand s b1)
  | _ => .divw (wideOperand s b1)

/-- The decoder: the instruction of an opcode byte `op` and the three bytes that follow it. It is total
(spec R99: "decoding never fails"), and it reads only the operand bytes the opcode has. -/
def decode (op b1 b2 b3 : Byte) : Instr :=
  let row := op.toNat / 8
  let sel := op.toNat % 8
  match row with
  | 0 => systemRow op sel
  | 1 => jumpRow sel b1 b2 b3
  | 2 => callRow sel b1 b2
  | 3 => pushRow sel b1
  | 4 => popRow op sel
  | 5 => loadRow sel b1 b2
  | 6 => dataRow .store op sel (joinBytes b1 b2)
  | 7 => dataRow .xch op sel (joinBytes b1 b2)
  | 8 => .add (aluOperand sel b1)
  | 9 => .adc (aluOperand sel b1)
  | 10 => .sub (aluOperand sel b1)
  | 11 => .sbc (aluOperand sel b1)
  | 12 => .and (aluOperand sel b1)
  | 13 => .or (aluOperand sel b1)
  | 14 => .xor (aluOperand sel b1)
  | 15 => .cmp (aluOperand sel b1)
  | 16 => .min (aluOperand sel b1)
  | 17 => .max (aluOperand sel b1)
  | 18 => shiftRow .shl op sel b1
  | 19 => shiftRow .shr op sel b1
  | 20 => shiftRow .rol op sel b1
  | 21 => shiftRow .ror op sel b1
  | 22 => unaryRow .inc .incHL sel
  | 23 => unaryRow .dec .decHL sel
  | 24 => unaryRow .neg .negHL sel
  | 25 => unaryRow .not .notHL sel
  | 26 => frameRow op sel b1
  | 27 => frameRow op (8 + sel) b1
  | 28 => frameRow op (16 + sel) b1
  | 29 => wideRow (sel / 4) (sel % 4) b1
  | 30 => wideRow (2 + sel / 4) (sel % 4) b1
  | _ => .unassigned op

/-! ## Lengths -/

/-- `len(op)`, the length in bytes of the instruction whose opcode is `op`: the lists of spec R97. -/
def opLength (op : Byte) : Nat :=
  if op = 0x0F then 4
  else if [0x08, 0x09, 0x0A, 0x0B, 0x0C, 0x0D, 0x0E, 0x10, 0x15, 0x16, 0x28, 0x30, 0x38].contains op.toNat then 3
  else if [0x12, 0x13, 0x17, 0x1F, 0x2D, 0x45, 0x4D, 0x55, 0x5D, 0x65, 0x6D, 0x75, 0x7D, 0x85, 0x8D, 0x95,
      0x9D, 0xA5, 0xAD, 0xEB, 0xEF, 0xF3, 0xF7].contains op.toNat then 2
  else if 0xD0 ≤ op.toNat ∧ op.toNat ≤ 0xE3 then 2
  else 1

/-- The operand bytes of a source form (spec R91, R95). -/
def Src8.operandBytes : Src8 → Nat
  | .reg _ | .hlInd | .lInd => 0
  | .imm _ | .frame _ => 1
  | .abs _ => 2

/-- The operand bytes of a destination form (spec R91, R95). -/
def Loc8.operandBytes : Loc8 → Nat
  | .reg _ | .hlInd | .lInd => 0
  | .frame _ => 1
  | .abs _ => 2

/-- The length of an instruction in bytes, by its format F1 to F4 (spec R91). -/
def Instr.length : Instr → Nat
  | .halt | .noop | .ei | .di | .et | .dt | .reset | .unassigned _ => 1
  | .jmp _ | .jz _ | .jnz _ | .js _ | .jns _ | .jc _ | .jnc _ | .call _ => 3
  | .jext _ _ _ => 4
  | .ret | .leave | .clra => 1
  | .retI _ | .enter _ | .addlI8 _ => 2
  | .ldhlI16 _ | .addhlI16 _ => 3
  | .push (.imm _) => 2
  | .push (.reg _) | .push .bp | .push .flags | .pop _ => 1
  | .load o | .add o | .adc o | .sub o | .sbc o | .and o | .or o | .xor o | .cmp o | .min o | .max o
  | .shl o | .shr o | .rol o | .ror o | .addw o | .subw o | .mulw o | .divw o => 1 + o.operandBytes
  | .store o | .xch o | .inc o | .dec o | .neg o | .not o => 1 + o.operandBytes
  | .incHL | .decHL | .negHL | .notHL => 1

/-! ## Decoding a byte sequence -/

/-- Why a byte sequence gives no instruction. -/
inductive DecodeError where
  /-- the sequence is empty: there is no opcode byte -/
  | noOpcode
  /-- the sequence ends before the operand bytes that its opcode byte calls for -/
  | truncated
  deriving DecidableEq, Repr

/-- The first instruction of a byte sequence and the rest of the sequence (spec R100). The engine itself
never meets an error here: it fetches from a memory that wraps (spec R61). -/
def decodeBytes : List Byte → Except DecodeError (Instr × List Byte)
  | [] => .error .noOpcode
  | op :: rest =>
    if rest.length + 1 < opLength op then .error .truncated
    else .ok (decode op (rest.getD 0 0) (rest.getD 1 0) (rest.getD 2 0), rest.drop (opLength op - 1))

/-- Byte `k` of an instruction's bits, numbered as spec/opcode_table.json numbers them: bit 0 is the
least significant bit of the first byte, the second byte is bits 15 to 8. Bits at and above `nbits`
read as 0. -/
def tableByte (nbits w k : Nat) : Byte := BitVec.ofNat 8 ((w % 2 ^ nbits) / 2 ^ (8 * k))

/-- What the decoder reads from an instruction whose bits are `w`. -/
def decodeTableWord (nbits w : Nat) : Option Instr :=
  some (decode (tableByte nbits w 0) (tableByte nbits w 1) (tableByte nbits w 2) (tableByte nbits w 3))

/-! ## The encoder (spec R91, R94, R96) -/

/-- The selector of a register, 0 to 4 (spec R94). -/
def Reg8.sel : Reg8 → Byte
  | .a => 0
  | .b => 1
  | .c => 2
  | .h => 3
  | .l => 4

/-- An ALU-row instruction: `base + sel`, and a separate opcode for the frame form (spec R94). -/
def encodeAlu (base frameOp : Byte) : Src8 → List Byte
  | .reg r => [base + r.sel]
  | .imm v => [base + 5, v]
  | .hlInd => [base + 6]
  | .lInd => [base + 7]
  | .frame d => [frameOp, d]
  | .abs _ => []

/-- A unary-row instruction: `base + sel`, and a separate opcode for the frame form (spec R94). -/
def encodeUnary (base frameOp : Byte) : Loc8 → List Byte
  | .reg r => [base + r.sel]
  | .hlInd => [base + 6]
  | .lInd => [base + 7]
  | .frame d => [frameOp, d]
  | .abs _ => []

/-- A STORE or XCH instruction: selector 0 is (a16), and `frameForm` is the frame form's encoding
(spec R94). -/
def encodeData (base : Byte) (frameForm : Byte → List Byte) : Loc8 → List Byte
  | .reg r => [base + r.sel]
  | .abs a => [base, hiByte a, loByte a]
  | .hlInd => [base + 6]
  | .lInd => [base + 7]
  | .frame d => frameForm d

/-- A wide instruction: `0xE8 + 4*j + s` (spec R92). -/
def encodeWide (base : Byte) : Src8 → List Byte
  | .reg r => [base + r.sel]
  | .imm v => [base + 3, v]
  | .hlInd | .lInd | .abs _ | .frame _ => []

/-- JEXT's mode field (spec R267). -/
def JextMode.code : JextMode → BitVec 2
  | .anySet => 0
  | .allSet => 1
  | .allClear => 2
  | .anyClear => 3

/-- An F3 instruction: opcode, high byte, low byte (spec R91). -/
def encodeF3 (op : Byte) (w : Word) : List Byte := [op, hiByte w, loByte w]

/-- The bytes of an instruction, in address order (spec R91, R96). Of an ill-formed instruction the
answer means nothing: the spec gives it no encoding. -/
def encode : Instr → List Byte
  | .halt => [0x00]
  | .noop => [0x01]
  | .ei => [0x02]
  | .di => [0x03]
  | .et => [0x04]
  | .dt => [0x05]
  | .reset => [0x06]
  | .unassigned op => [op]
  | .jmp t => encodeF3 0x08 t
  | .jz t => encodeF3 0x09 t
  | .jnz t => encodeF3 0x0A t
  | .js t => encodeF3 0x0B t
  | .jns t => encodeF3 0x0C t
  | .jc t => encodeF3 0x0D t
  | .jnc t => encodeF3 0x0E t
  | .jext mode mask t => [0x0F, mode.code ++ mask, hiByte t, loByte t]
  | .call t => encodeF3 0x10 t
  | .ret => [0x11]
  | .retI n => [0x12, n]
  | .enter n => [0x13, n]
  | .leave => [0x14]
  | .ldhlI16 v => encodeF3 0x15 v
  | .addhlI16 v => encodeF3 0x16 v
  | .addlI8 v => [0x17, v]
  | .push (.reg r) => [0x18 + r.sel]
  | .push .bp => [0x1D]
  | .push .flags => [0x1E]
  | .push (.imm v) => [0x1F, v]
  | .pop (.reg r) => [0x20 + r.sel]
  | .pop .bp => [0x25]
  | .pop .flags => [0x26]
  | .load (.abs a) => encodeF3 0x28 a
  | .load (.reg r) => encodeAlu 0x28 0xE2 (.reg r)
  | .load (.imm v) => encodeAlu 0x28 0xE2 (.imm v)
  | .load .hlInd => encodeAlu 0x28 0xE2 .hlInd
  | .load .lInd => encodeAlu 0x28 0xE2 .lInd
  | .load (.frame d) => encodeAlu 0x28 0xE2 (.frame d)
  | .store o => encodeData 0x30 (fun _ => []) o
  | .xch o => encodeData 0x38 (fun d => [0xE3, d]) o
  | .clra => [0xE4]
  | .add o => encodeAlu 0x40 0xD0 o
  | .adc o => encodeAlu 0x48 0xD1 o
  | .sub o => encodeAlu 0x50 0xD2 o
  | .sbc o => encodeAlu 0x58 0xD3 o
  | .and o => encodeAlu 0x60 0xD4 o
  | .or o => encodeAlu 0x68 0xD5 o
  | .xor o => encodeAlu 0x70 0xD6 o
  | .cmp o => encodeAlu 0x78 0xD7 o
  | .min o => encodeAlu 0x80 0xD8 o
  | .max o => encodeAlu 0x88 0xD9 o
  | .shl o => encodeAlu 0x90 0xDA o
  | .shr o => encodeAlu 0x98 0xDB o
  | .rol o => encodeAlu 0xA0 0xDC o
  | .ror o => encodeAlu 0xA8 0xDD o
  | .inc o => encodeUnary 0xB0 0xDE o
  | .incHL => [0xB5]
  | .dec o => encodeUnary 0xB8 0xDF o
  | .decHL => [0xBD]
  | .neg o => encodeUnary 0xC0 0xE0 o
  | .negHL => [0xC5]
  | .not o => encodeUnary 0xC8 0xE1 o
  | .notHL => [0xCD]
  | .addw o => encodeWide 0xE8 o
  | .subw o => encodeWide 0xEC o
  | .mulw o => encodeWide 0xF0 o
  | .divw o => encodeWide 0xF4 o

end Sys2Proof
end

