-- ==== Sys2Proof/Config.lean ====
section
/-! DEFINITION. What an implementation fixes: the parameters of spec R5 as plain data, and the free
values of the model: the bytes an external agent writes (spec R72), and what the assembler emits for a line
it rejects. -/

namespace Sys2Proof

/-- JEXT_NOT_TAKEN_ADVANCE, a parameter in the set 4, 1 (spec R5, R267, D24). -/
inductive JextAdvance where
  /-- 4: a not-taken JEXT skips the whole instruction (the default). -/
  | whole
  /-- 1: a not-taken JEXT continues at its own mask byte (the reference behaviour). -/
  | opcodeOnly
  deriving DecidableEq, Repr

/-- The number of bytes a not-taken JEXT advances PC by (spec R267). -/
def JextAdvance.bytes : JextAdvance → Nat
  | .whole => 4
  | .opcodeOnly => 1

/-- The OPEN parameters of spec R5. "A value marked OPEN is a named parameter the model takes as an
argument": a state carries them (log entry 1), no step changes them, and a statement about every state
is a statement about every value of them. -/
structure Params where
  /-- PROGRAM_START: where execution begins (spec R351, D30). -/
  programStart : Word
  /-- JEXT_NOT_TAKEN_ADVANCE (spec R267, D24). -/
  jextNotTakenAdvance : JextAdvance
  /-- DIVW_BY_ZERO_RESULT (spec R243, D21). -/
  divwByZeroResult : Word
  /-- RESET_CLEARS_MEMORY (spec R306, D29). -/
  resetClearsMemory : Bool
  /-- EXTERNAL_WRITE_REGION: the addresses the keyboard collaborator may write (spec R72, D41). -/
  externalWriteRegion : List Word
  /-- DISPLAY_REGION: the addresses the display collaborator may read (spec R72, D41). -/
  displayRegion : List Word
  deriving DecidableEq, Repr

/-- The defaults of spec R5. -/
def Params.default : Params where
  programStart := 0x0100
  jextNotTakenAdvance := .whole
  divwByZeroResult := 0xFFFF
  resetClearsMemory := false
  externalWriteRegion := []
  displayRegion := []

/-- MEM_SIZE: 65536 bytes (spec R5, R60). -/
def memSize : Nat := 65536

/-- STACK_SIZE: 256 bytes (spec R5, R64). -/
def stackSize : Nat := 256

/-- FREE VALUE (log entry 2): the byte that an external agent puts at an address of
EXTERNAL_WRITE_REGION, at the n-th draw. It has no body: "taking an arbitrary value (a draw) between
any two steps" (spec R72). -/
opaque Config.externalByte : Nat → Word → Byte

/-- FREE VALUE (log entry 12): the bytes that the assembler emits for a line it rejects, by line number.
It has no body: "A reader must not assume any bytes for it" (spec 91_not_in_source.md, 30_encoding.md). -/
opaque Config.rejectedLineBytes : Nat → List Byte

end Sys2Proof
end

