-- ==== Sys2Proof/Machine/State.lean ====
section
/-! DEFINITION. The machine's state, its stop reasons, and the state after reset (spec R30, R50). -/

namespace Sys2Proof.Machine

/-- A byte-addressed array as the list of its cells that do not read as 0x00, addresses strictly rising.
An address that is not listed reads as 0x00, the value spec R50 gives every byte of MEM and every cell
of STACK after INIT. `Memory.wf` (Ops) says that the form holds. -/
abbrev Memory := List Host.Cell

/-- The architectural state of spec R30, and two fields that are the model's own: `params` and `draws`. -/
structure State where
  /-- program counter (spec R35) -/
  pc : Word
  /-- accumulator A (spec R31) -/
  a : Byte
  /-- general register B (spec R32) -/
  b : Byte
  /-- general register C (spec R32) -/
  c : Byte
  /-- register H, the high byte of HL (spec R33, R34) -/
  h : Byte
  /-- register L, the low byte of HL (spec R33, R34) -/
  l : Byte
  /-- flags byte F (spec R36) -/
  f : Byte
  /-- stack pointer SP, an index into STACK (spec R44) -/
  sp : Byte
  /-- base pointer BP, an index into STACK (spec R45) -/
  bp : Byte
  /-- STACK, 256 cells (spec R46) -/
  stack : Memory
  /-- MEM, 65536 bytes (spec R47) -/
  mem : Memory
  /-- MODEL'S OWN (log entry 1): the OPEN parameters of spec R5. No step changes it. -/
  params : Params
  /-- MODEL'S OWN (log entry 2): how many external bytes have been drawn (spec R72). -/
  draws : Nat
  deriving DecidableEq, Repr

/-- Why the engine stops with a fault. There is no such reason: "The engine raises no exception"
(spec R320), so the type has no constructor. Safe: nothing can be proved about a fault that the
hardware lacks. -/
inductive Fault where
  deriving DecidableEq, Repr

/-- Why the model gives an input no meaning. -/
inductive Refusal where
  /-- Raised by an arm of exec whose instruction has no meaning yet. Safe. No arm raises it. -/
  | notModelled (mnemonic : String)
  /-- Raised by the host transaction LOAD for more than 65536 bytes, which spec R151 refuses. Safe.
  No instruction raises it. -/
  | loadTooLong
  deriving DecidableEq, Repr

/-- The outcome of a step or of a host transaction. -/
abbrev Result := Host.Outcome State Fault Refusal

/-- The state after INIT (spec R50, "after initialize", R150), for given parameters. `n` is the count of
external draws so far, which INIT does not touch. -/
def State.initial (p : Params) (n : Nat) : State where
  pc := p.programStart
  a := 0
  b := 0
  c := 0
  h := 0
  l := 0
  f := 0
  sp := 0
  bp := 0
  stack := []
  mem := []
  params := p
  draws := n

/-- The machine right after reset: after INIT, with the parameters at the defaults of spec R5. -/
def State.reset : State := State.initial Params.default 0

end Sys2Proof.Machine
end

