-- ==== Sys2Proof/Machine/Ops.lean ====
section
/-! DEFINITION. The named operations over MEM, STACK and the registers that every meaning uses (spec R8, R60,
R64, and `push`/`pop` of file 47). There is no operation that takes an exception and none that returns
from one: the engine has neither (spec R325, R326). -/

namespace Sys2Proof.Machine

/-! ## Byte arrays -/

/-- The value at an address; 0x00 where nothing is listed. -/
def Memory.read : Memory → Nat → Byte
  | [], _ => 0
  | (k, v) :: r, a => if k = a then v else Memory.read r a

/-- The array without any cell at `a`. -/
def Memory.erase : Memory → Nat → Memory
  | [], _ => []
  | (k, v) :: r, a => if k = a then Memory.erase r a else (k, v) :: Memory.erase r a

/-- The array with the cell `(a, v)` put before the first higher address. -/
def Memory.insert : Memory → Nat → Byte → Memory
  | [], a, v => [(a, v)]
  | (k, w) :: r, a, v => if a < k then (a, v) :: (k, w) :: r else (k, w) :: Memory.insert r a v

/-- Set one address. Writing 0x00, what an unlisted address reads as, removes the entry, so that equal
arrays are equal lists. -/
def Memory.write (m : Memory) (a : Nat) (v : Byte) : Memory :=
  if v = 0 then m.erase a else (m.erase a).insert a v

/-- The canonical form from address `lo` on: addresses strictly rising, all in `[lo, size)`, no cell at
0x00. -/
def Memory.wfFrom (size : Nat) : Nat → Memory → Bool
  | _, [] => true
  | lo, (k, v) :: r => decide (lo ≤ k) && decide (k < size) && (v != 0) && Memory.wfFrom size (k + 1) r

/-- The canonical form of an array of `size` cells. -/
def Memory.wf (size : Nat) (m : Memory) : Bool := Memory.wfFrom size 0 m

/-! ## MEM and STACK (spec R60, R64) -/

/-- `MemRead(addr, 1)` (spec R60). Every 16-bit address is legal. -/
def State.memRead (s : State) (x : Word) : Byte := s.mem.read x.toNat

/-- `MemWrite(addr, 1, v)` (spec R60). -/
def State.memWrite (s : State) (x : Word) (v : Byte) : State := { s with mem := s.mem.write x.toNat v }

/-- `StackRead(i)` (spec R64). Every 8-bit index is legal. -/
def State.stackRead (s : State) (i : Byte) : Byte := s.stack.read i.toNat

/-- `StackWrite(i, v)` (spec R64). -/
def State.stackWrite (s : State) (i : Byte) (v : Byte) : State := { s with stack := s.stack.write i.toNat v }

/-! ## Registers (spec R8) -/

/-- Read a register. -/
def State.reg (s : State) : Reg8 → Byte
  | .a => s.a
  | .b => s.b
  | .c => s.c
  | .h => s.h
  | .l => s.l

/-- Write a register. None is hard-wired (spec R31, R32, R33). -/
def State.setReg (s : State) (r : Reg8) (v : Byte) : State :=
  match r with
  | .a => { s with a := v }
  | .b => { s with b := v }
  | .c => { s with c := v }
  | .h => { s with h := v }
  | .l => { s with l := v }

/-- `HL` read as `H:L` (spec R8, R34). -/
def State.hl (s : State) : Word := joinBytes s.h s.l

/-- `HL <- v`: H gets bits 15 to 8 and L bits 7 to 0, together (spec R8, R34). -/
def State.setHL (s : State) (v : Word) : State := { s with h := hiByte v, l := loByte v }

/-- `A <- v`. -/
def State.setA (s : State) (v : Byte) : State := { s with a := v }

/-- `PC <- target` (spec R8). -/
def State.setPC (s : State) (target : Word) : State := { s with pc := target }

/-- `(PC + n) mod 65536` (spec R9, R61). -/
def State.pcPlus (s : State) (n : Nat) : Word := s.pc + BitVec.ofNat 16 n

/-- `PC <- next`, for an instruction of `n` bytes (spec R9, R143). -/
def State.advance (s : State) (n : Nat) : State := s.setPC (s.pcPlus n)

/-! ## The stack discipline (file 47: `push` and `pop`) -/

/-- `push(v)`: write STACK[SP], then increment SP modulo 256. No flag is written. -/
def State.push (s : State) (v : Byte) : State :=
  { s.stackWrite s.sp v with sp := s.sp + 1 }

/-- `pop()`: decrement SP modulo 256, then read STACK[SP]. The cell keeps its value (spec R281). -/
def State.pop (s : State) : Byte × State :=
  (s.stackRead (s.sp - 1), { s with sp := s.sp - 1 })

/-! ## Fetch (spec R93, R140, R142) -/

/-- `Fetch8(k) = MemRead((PC + k) mod 65536, 1)` (spec R93). -/
def State.fetch8 (s : State) (k : Nat) : Byte := s.memRead (s.pcPlus k)

/-- The instruction at PC: the decoder on the opcode byte and the three bytes after it, modulo 65536.
Reads have no side effect (spec R71), so reading a byte that the instruction does not have changes
nothing (log entry 6). -/
def State.fetch (s : State) : Instr := decode (s.fetch8 0) (s.fetch8 1) (s.fetch8 2) (s.fetch8 3)

/-- The longest instruction's bytes from `k` on, the first at `x`: writing an instruction into MEM. -/
def State.storeBytes (s : State) (x : Word) : List Byte → State
  | [] => s
  | v :: r => (s.memWrite x v).storeBytes (x + 1) r

/-! ## Reset (spec R306) -/

/-- The effect of the RESET instruction and of the host's RESET (spec R50 "after reset or RESET", R154,
R306): every register, F, SP, BP and STACK to 0, PC to PROGRAM_START, MEM cleared only when
RESET_CLEARS_MEMORY is true. -/
def State.resetAll (s : State) : State :=
  { State.initial s.params s.draws with
    mem := if s.params.resetClearsMemory then [] else s.mem }

end Sys2Proof.Machine
end

