-- ==== Sys2Proof/Machine/Flags.lean ====
section
/-! DEFINITION. The flags byte F and every flag computation of the spec (spec R9, R36 to R43). -/

namespace Sys2Proof.Machine

/-- The bits of F (spec R36): seven flags and the storage bit. -/
inductive Flag where
  /-- F.C, Carry, bit 0 -/
  | c
  /-- F.Z, Zero, bit 1 -/
  | z
  /-- F.S, Sign, bit 2 -/
  | s
  /-- F.O, Overflow, bit 3, inert (R40) -/
  | o
  /-- F.AC, Auxiliary carry, bit 4, inert (R40) -/
  | ac
  /-- F.I, Interrupt enable, bit 5, inert (R41) -/
  | i
  /-- F.T, Trap, bit 6 (R42) -/
  | t
  /-- F bit 7, a storage bit (R43) -/
  | r7
  deriving DecidableEq, Repr

/-- The bit position of a flag (spec R36, D4, D5). -/
def Flag.bit : Flag → Nat
  | .c => 0
  | .z => 1
  | .s => 2
  | .o => 3
  | .ac => 4
  | .i => 5
  | .t => 6
  | .r7 => 7

/-- One bit of a flags byte. -/
def flagOf (f : Byte) (fl : Flag) : Bool := f.getLsbD fl.bit

/-- A flags byte with one bit written, the others kept. -/
def putFlag (f : Byte) (fl : Flag) (v : Bool) : Byte :=
  if v then f ||| (1#8 <<< fl.bit) else f &&& ~~~(1#8 <<< fl.bit)

/-- Read a flag of the state. -/
def State.flag (s : State) (fl : Flag) : Bool := flagOf s.f fl

/-- Write a flag of the state; every other flag keeps its value (spec R9). -/
def State.setFlag (s : State) (fl : Flag) (v : Bool) : State := { s with f := putFlag s.f fl v }

/-- `setZS8(v)`: Z iff v is 0, S is bit 7 (spec R9). -/
def State.setZS8 (s : State) (v : Byte) : State :=
  (s.setFlag .z (v == 0)).setFlag .s (v.getLsbD 7)

/-- `setZS16(v)`: Z iff v is 0, S is bit 15 (spec R9). -/
def State.setZS16 (s : State) (v : Word) : State :=
  (s.setFlag .z (v == 0)).setFlag .s (v.getLsbD 15)

/-- `setZSH()`: Z iff H is 0, S is bit 7 of H, with H read after the HL write (file 45). -/
def State.setZSH (s : State) : State := s.setZS8 s.h

/-- A flag as the number 0 or 1. -/
def bitNat (v : Bool) : Nat := if v then 1 else 0

/-- Carry out of the exact sum `A + v + cin` (spec R180, R181: "r > 255"). -/
def addCarry (a v : Byte) (cin : Bool) : Bool := decide (255 < a.toNat + v.toNat + bitNat cin)

/-- The sum modulo 256 (spec R180, R181). -/
def addResult (a v : Byte) (cin : Bool) : Byte := BitVec.ofNat 8 (a.toNat + v.toNat + bitNat cin)

/-- Borrow of the exact difference `A - v - bin` (spec R182, R183: "A < v + b"). -/
def subBorrow (a v : Byte) (bin : Bool) : Bool := decide (a.toNat < v.toNat + bitNat bin)

/-- The difference modulo 256 (spec R182, R183). -/
def subResult (a v : Byte) (bin : Bool) : Byte := a - v - BitVec.ofNat 8 (bitNat bin)

end Sys2Proof.Machine
end

