-- ==== Sys2Proof/Machine/Operands.lean ====
section
/-! DEFINITION. Every operand form of spec R95: its source value and its destination location. -/

namespace Sys2Proof.Machine

/-- The STACK index of the frame form: `(BP + d - 1) mod 256` (spec R95, D9). -/
def State.frameIndex (s : State) (d : Byte) : Byte := s.bp + d - 1

/-- The MEM address of the (L) form: `0x00:L` (spec R95, D10). -/
def State.lAddr (s : State) : Word := zext16 s.l

/-- `src8(o)`: the value of a source operand (spec R95). -/
def State.src8 (s : State) : Src8 → Byte
  | .reg r => s.reg r
  | .imm v => v
  | .abs x => s.memRead x
  | .hlInd => s.memRead s.hl
  | .lInd => s.memRead s.lAddr
  | .frame d => s.stackRead (s.frameIndex d)

/-- The value at a destination location: `src8` of the same form (spec R95). -/
def State.readLoc (s : State) : Loc8 → Byte
  | .reg r => s.reg r
  | .abs x => s.memRead x
  | .hlInd => s.memRead s.hl
  | .lInd => s.memRead s.lAddr
  | .frame d => s.stackRead (s.frameIndex d)

/-- `loc(o) <- v` (spec R95). -/
def State.writeLoc (s : State) (o : Loc8) (v : Byte) : State :=
  match o with
  | .reg r => s.setReg r v
  | .abs x => s.memWrite x v
  | .hlInd => s.memWrite s.hl v
  | .lInd => s.memWrite s.lAddr v
  | .frame d => s.stackWrite (s.frameIndex d) v

/-- The MEM address a destination form writes, if it writes MEM (spec R62, R95). -/
def State.locMemAddr (s : State) : Loc8 → Option Word
  | .reg _ | .frame _ => none
  | .abs x => some x
  | .hlInd => some s.hl
  | .lInd => some s.lAddr

/-- The STACK index a destination form writes, if it writes STACK (spec R65, R95). -/
def State.locStackIndex (s : State) : Loc8 → Option Byte
  | .frame d => some (s.frameIndex d)
  | .reg _ | .abs _ | .hlInd | .lInd => none

/-- The source value of a wide instruction, `zext_16(src8(s))` (file 45, D18). -/
def State.srcWide (s : State) (o : Src8) : Word := zext16 (s.src8 o)

/-- The value PUSH moves (spec R280). -/
def State.pushValue (s : State) : PushSrc → Byte
  | .reg r => s.reg r
  | .bp => s.bp
  | .flags => s.f
  | .imm v => v

end Sys2Proof.Machine
end

