-- ==== Sys2Proof/Machine/Alu.lean ====
section
/-! DEFINITION. The accumulator ALU (spec file 42). -/

namespace Sys2Proof.Machine

/-- `A <- r; setZS8(A)`: what every 8-bit accumulator result does (files 42 and 44). -/
def State.setAZS (s : State) (r : Byte) : State := (s.setA r).setZS8 r

/-- ADD (spec R180). -/
def execAdd (o : Src8) (s : State) : Result :=
  let v := s.src8 o
  .next (((s.setFlag .c (addCarry s.a v false)).setAZS (addResult s.a v false)).advance (Instr.add o).length)

/-- ADC (spec R181): the sum includes F.C. -/
def execAdc (o : Src8) (s : State) : Result :=
  let v := s.src8 o
  let cin := s.flag .c
  .next (((s.setFlag .c (addCarry s.a v cin)).setAZS (addResult s.a v cin)).advance (Instr.adc o).length)

/-- SUB (spec R182): F.C is the borrow, from A before the write. -/
def execSub (o : Src8) (s : State) : Result :=
  let v := s.src8 o
  .next (((s.setFlag .c (subBorrow s.a v false)).setAZS (subResult s.a v false)).advance (Instr.sub o).length)

/-- SBC (spec R183): the borrow in is F.C. -/
def execSbc (o : Src8) (s : State) : Result :=
  let v := s.src8 o
  let bin := s.flag .c
  .next (((s.setFlag .c (subBorrow s.a v bin)).setAZS (subResult s.a v bin)).advance (Instr.sbc o).length)

/-- AND (spec R184). F.C is unchanged. -/
def execAnd (o : Src8) (s : State) : Result :=
  .next ((s.setAZS (s.a &&& s.src8 o)).advance (Instr.and o).length)

/-- OR (spec R185). F.C is unchanged. -/
def execOr (o : Src8) (s : State) : Result :=
  .next ((s.setAZS (s.a ||| s.src8 o)).advance (Instr.or o).length)

/-- XOR (spec R186). F.C is unchanged. -/
def execXor (o : Src8) (s : State) : Result :=
  .next ((s.setAZS (s.a ^^^ s.src8 o)).advance (Instr.xor o).length)

/-- CMP (spec R187): Z and S of the 8-bit difference. A and F.C are unchanged. -/
def execCmp (o : Src8) (s : State) : Result :=
  .next ((s.setZS8 (subResult s.a (s.src8 o) false)).advance (Instr.cmp o).length)

end Sys2Proof.Machine
end

