-- ==== Sys2Proof/Machine/Control.lean ====
section
/-! DEFINITION. Control transfer (spec file 46). No instruction here writes a flag. -/

namespace Sys2Proof.Machine

/-- `if taken then PC <- target else PC <- (PC + n) mod 65536`. -/
def State.branch (s : State) (taken : Bool) (target : Word) (n : Nat) : State :=
  if taken then s.setPC target else s.advance n

/-- JMP (spec R260). -/
def execJmp (target : Word) (s : State) : Result := .next (s.setPC target)

/-- JZ (spec R261). -/
def execJz (target : Word) (s : State) : Result :=
  .next (s.branch (s.flag .z) target (Instr.jz target).length)

/-- JNZ (spec R262). -/
def execJnz (target : Word) (s : State) : Result :=
  .next (s.branch (!s.flag .z) target (Instr.jnz target).length)

/-- JS (spec R263). -/
def execJs (target : Word) (s : State) : Result :=
  .next (s.branch (s.flag .s) target (Instr.js target).length)

/-- JNS (spec R264). -/
def execJns (target : Word) (s : State) : Result :=
  .next (s.branch (!s.flag .s) target (Instr.jns target).length)

/-- JC (spec R265). -/
def execJc (target : Word) (s : State) : Result :=
  .next (s.branch (s.flag .c) target (Instr.jc target).length)

/-- JNC (spec R266). -/
def execJnc (target : Word) (s : State) : Result :=
  .next (s.branch (!s.flag .c) target (Instr.jnc target).length)

/-- JEXT's predicate on the low six bits of F (spec R267). -/
def jextTaken (mode : JextMode) (mask : BitVec 6) (f : Byte) : Bool :=
  let low : BitVec 6 := f.extractLsb' 0 6
  match mode with
  | .anySet => low &&& mask != 0
  | .allSet => low &&& mask == mask
  | .allClear => low &&& mask == 0
  | .anyClear => low &&& mask != mask

/-- JEXT (spec R267). Not taken, it advances by the parameter JEXT_NOT_TAKEN_ADVANCE. -/
def execJext (mode : JextMode) (mask : BitVec 6) (target : Word) (s : State) : Result :=
  .next (s.branch (jextTaken mode mask s.f) target s.params.jextNotTakenAdvance.bytes)

/-- CALL (spec R268): push the return address, high byte then low byte, without a flag update. -/
def execCall (target : Word) (s : State) : Result :=
  let ret := s.pcPlus (Instr.call target).length
  .next (((s.push (hiByte ret)).push (loByte ret)).setPC target)

/-- The two pops of RET and RET_I: low byte, then high byte (spec R269, R270). -/
def State.popPC (s : State) : Word × State :=
  let (lo, s1) := s.pop
  let (hi, s2) := s1.pop
  (joinBytes hi lo, s2)

/-- RET (spec R269). -/
def execRet (s : State) : Result :=
  let (target, s1) := s.popPC
  .next (s1.setPC target)

/-- RET_I (spec R270): after the two pops, discard `n` further cells. -/
def execRetI (n : Byte) (s : State) : Result :=
  let (target, s1) := s.popPC
  .next ({ s1 with sp := s1.sp - n }.setPC target)

end Sys2Proof.Machine
end

