-- ==== Sys2Proof/Machine/DataMove.lean ====
section
/-! DEFINITION. Data movement and the synthetic address instructions (spec file 41). -/

namespace Sys2Proof.Machine

/-- LOAD (spec R160): `v <- src8(o); A <- v; setZS8(A); PC <- next`. -/
def execLoad (o : Src8) (s : State) : Result :=
  let v := s.src8 o
  .next (((s.setA v).setZS8 v).advance (Instr.load o).length)

/-- CLRA (spec R161): `A <- 0x00; F.Z <- 1; F.S <- 0; PC <- next`. -/
def execClra (s : State) : Result :=
  .next ((((s.setA 0).setFlag .z true).setFlag .s false).advance Instr.clra.length)

/-- STORE (spec R162): `loc(o) <- A; setZS8(A); PC <- next`. -/
def execStore (o : Loc8) (s : State) : Result :=
  .next (((s.writeLoc o s.a).setZS8 s.a).advance (Instr.store o).length)

/-- XCH (spec R163): `t <- src8(o); loc(o) <- A; A <- t; setZS8(A); PC <- next`. -/
def execXch (o : Loc8) (s : State) : Result :=
  let t := s.readLoc o
  .next ((((s.writeLoc o s.a).setA t).setZS8 t).advance (Instr.xch o).length)

/-- LDHL_I16 (spec R164): H gets the first operand byte, L the second. No flag is written. -/
def execLdhlI16 (v : Word) (s : State) : Result :=
  .next ((s.setHL v).advance (Instr.ldhlI16 v).length)

/-- ADDHL_I16 (spec R165): `HL <- (H:L + imm16) mod 65536`. No flag is written. -/
def execAddhlI16 (v : Word) (s : State) : Result :=
  .next ((s.setHL (s.hl + v)).advance (Instr.addhlI16 v).length)

/-- ADDL_I8 (spec R166): `L <- (L + imm8) mod 256`, H unchanged. No flag is written. -/
def execAddlI8 (v : Byte) (s : State) : Result :=
  .next ((s.setReg .l (s.l + v)).advance (Instr.addlI8 v).length)

end Sys2Proof.Machine
end

