-- ==== Sys2Proof/Machine/Shift.lean ====
section
/-! DEFINITION. Shifts and rotates of the accumulator, minimum and maximum (spec file 44). -/

namespace Sys2Proof.Machine

/-- The count `n = v[2:0]` of a shift or rotate (file 44, D16). -/
def shiftCount (v : Byte) : Nat := v.toNat % 8

/-- `((A << n) | (A >> (8 - n))) mod 256`, for n = 0 the accumulator itself (spec R222). -/
def rolByte (a : Byte) (n : Nat) : Byte := (a <<< n) ||| (a >>> (8 - n))

/-- `((A >> n) | (A << (8 - n))) mod 256`, for n = 0 the accumulator itself (spec R223). -/
def rorByte (a : Byte) (n : Nat) : Byte := (a >>> n) ||| (a <<< (8 - n))

/-- SHL (spec R220). F.C is unchanged. -/
def execShl (o : Src8) (s : State) : Result :=
  .next ((s.setAZS (s.a <<< shiftCount (s.src8 o))).advance (Instr.shl o).length)

/-- SHR, logical (spec R221). F.C is unchanged. -/
def execShr (o : Src8) (s : State) : Result :=
  .next ((s.setAZS (s.a >>> shiftCount (s.src8 o))).advance (Instr.shr o).length)

/-- ROL, within the 8 bits of A (spec R222). F.C is unchanged. -/
def execRol (o : Src8) (s : State) : Result :=
  .next ((s.setAZS (rolByte s.a (shiftCount (s.src8 o)))).advance (Instr.rol o).length)

/-- ROR, within the 8 bits of A (spec R223). F.C is unchanged. -/
def execRor (o : Src8) (s : State) : Result :=
  .next ((s.setAZS (rorByte s.a (shiftCount (s.src8 o)))).advance (Instr.ror o).length)

/-- MIN, unsigned (spec R224): `if v < A then A <- v; setZS8(A)`. -/
def execMin (o : Src8) (s : State) : Result :=
  let v := s.src8 o
  .next ((s.setAZS (if v.toNat < s.a.toNat then v else s.a)).advance (Instr.min o).length)

/-- MAX, unsigned (spec R225): `if v > A then A <- v; setZS8(A)`. -/
def execMax (o : Src8) (s : State) : Result :=
  let v := s.src8 o
  .next ((s.setAZS (if s.a.toNat < v.toNat then v else s.a)).advance (Instr.max o).length)

end Sys2Proof.Machine
end

