-- ==== Sys2Proof/Machine/Stack.lean ====
section
/-! DEFINITION. PUSH, POP, ENTER and LEAVE (spec file 47). -/

namespace Sys2Proof.Machine

/-- `if r != FLAGS then setZS8(v)` of PUSH (spec R280, D26). -/
def State.pushFlags (s : State) (o : PushSrc) (v : Byte) : State :=
  match o with
  | .flags => s
  | .reg _ | .bp | .imm _ => s.setZS8 v

/-- PUSH (spec R280). -/
def execPush (o : PushSrc) (s : State) : Result :=
  let v := s.pushValue o
  .next (((s.push v).pushFlags o v).advance (Instr.push o).length)

/-- `r <- v; if r != FLAGS then setZS8(v)` of POP (spec R281, D26). POP FLAGS writes all eight bits. -/
def State.popInto (s : State) (o : PopDst) (v : Byte) : State :=
  match o with
  | .reg r => (s.setReg r v).setZS8 v
  | .bp => { s with bp := v }.setZS8 v
  | .flags => { s with f := v }

/-- POP (spec R281). -/
def execPop (o : PopDst) (s : State) : Result :=
  let (v, s1) := s.pop
  .next ((s1.popInto o v).advance (Instr.pop o).length)

/-- ENTER (spec R282): push BP, BP gets SP, SP gets SP + n. No flag is written. -/
def execEnter (n : Byte) (s : State) : Result :=
  let s1 := s.push s.bp
  .next ({ s1 with bp := s1.sp, sp := s1.sp + n }.advance (Instr.enter n).length)

/-- LEAVE (spec R283): SP gets BP, BP gets the popped byte. No flag is written. -/
def execLeave (s : State) : Result :=
  let (v, s1) := { s with sp := s.bp }.pop
  .next ({ s1 with bp := v }.advance Instr.leave.length)

end Sys2Proof.Machine
end

