-- ==== Sys2Proof/Machine/System.lean ====
section
/-! DEFINITION. System instructions and unassigned opcodes (spec file 48). -/

namespace Sys2Proof.Machine

/-- NOOP (spec R300). -/
def execNoop (s : State) : Result := .next (s.advance Instr.noop.length)

/-- HALT (spec R301): "HALT performs no state change", PC is not advanced. -/
def execHalt (s : State) : Result := .next s

/-- EI (spec R302). -/
def execEi (s : State) : Result := .next ((s.setFlag .i true).advance Instr.ei.length)

/-- DI (spec R303). -/
def execDi (s : State) : Result := .next ((s.setFlag .i false).advance Instr.di.length)

/-- ET (spec R304). -/
def execEt (s : State) : Result := .next ((s.setFlag .t true).advance Instr.et.length)

/-- DT (spec R305). -/
def execDt (s : State) : Result := .next ((s.setFlag .t false).advance Instr.dt.length)

/-- RESET (spec R306). -/
def execReset (s : State) : Result := .next s.resetAll

/-- An unassigned opcode (spec R307): a 1-byte no-operation. -/
def execUnassigned (op : Byte) (s : State) : Result := .next (s.advance (Instr.unassigned op).length)

end Sys2Proof.Machine
end

