-- ==== Sys2Proof/Machine/Unary.lean ====
section
/-! DEFINITION. The unary instructions, in place, in their 8-bit and HL forms (spec file 43). -/

namespace Sys2Proof.Machine

/-- `loc(o) <- r; setZS8(r)`: what every 8-bit unary result does (file 43). The location is that of the
state before the write. -/
def State.setLocZS (s : State) (o : Loc8) (r : Byte) : State := (s.writeLoc o r).setZS8 r

/-- `HL <- r; setZS16(r)`: what every unary result on HL does (file 43). -/
def State.setHLZS (s : State) (r : Word) : State := (s.setHL r).setZS16 r

/-- INC, 8-bit (spec R200): F.C iff the operand was 0xFF. -/
def execInc (o : Loc8) (s : State) : Result :=
  let v := s.readLoc o
  .next (((s.setLocZS o (v + 1)).setFlag .c (v == 0xFF)).advance (Instr.inc o).length)

/-- INC HL (spec R201): F.C iff HL was 0xFFFF. -/
def execIncHL (s : State) : Result :=
  let v := s.hl
  .next (((s.setHLZS (v + 1)).setFlag .c (v == 0xFFFF)).advance Instr.incHL.length)

/-- DEC, 8-bit (spec R202): F.C iff the operand was 0x00. -/
def execDec (o : Loc8) (s : State) : Result :=
  let v := s.readLoc o
  .next (((s.setLocZS o (v - 1)).setFlag .c (v == 0)).advance (Instr.dec o).length)

/-- DEC HL (spec R203): F.C iff HL was 0x0000. -/
def execDecHL (s : State) : Result :=
  let v := s.hl
  .next (((s.setHLZS (v - 1)).setFlag .c (v == 0)).advance Instr.decHL.length)

/-- NEG, 8-bit (spec R204). F.C is unchanged. -/
def execNeg (o : Loc8) (s : State) : Result :=
  .next ((s.setLocZS o (-(s.readLoc o))).advance (Instr.neg o).length)

/-- NEG HL (spec R205). F.C is unchanged. -/
def execNegHL (s : State) : Result :=
  .next ((s.setHLZS (-s.hl)).advance Instr.negHL.length)

/-- NOT, 8-bit (spec R206). F.C is unchanged. -/
def execNot (o : Loc8) (s : State) : Result :=
  .next ((s.setLocZS o (s.readLoc o ^^^ 0xFF)).advance (Instr.not o).length)

/-- NOT HL (spec R207). F.C is unchanged. -/
def execNotHL (s : State) : Result :=
  .next ((s.setHLZS (s.hl ^^^ 0xFFFF)).advance Instr.notHL.length)

end Sys2Proof.Machine
end

