-- ==== Sys2Proof/Machine/Wide.lean ====
section
/-! DEFINITION. Wide arithmetic on HL (spec file 45): F.Z and F.S describe the new H only, F.C is
unchanged. -/

namespace Sys2Proof.Machine

/-- `HL <- r; setZSH()`: what every wide result does (file 45). -/
def State.setHLZSH (s : State) (r : Word) : State := (s.setHL r).setZSH

/-- ADDW (spec R240). -/
def execAddw (o : Src8) (s : State) : Result :=
  .next ((s.setHLZSH (s.hl + s.srcWide o)).advance (Instr.addw o).length)

/-- SUBW (spec R241). -/
def execSubw (o : Src8) (s : State) : Result :=
  .next ((s.setHLZSH (s.hl - s.srcWide o)).advance (Instr.subw o).length)

/-- MULW, the low 16 bits of the unsigned product (spec R242). -/
def execMulw (o : Src8) (s : State) : Result :=
  .next ((s.setHLZSH (s.hl * s.srcWide o)).advance (Instr.mulw o).length)

/-- DIVW's new HL: the unsigned quotient, or the parameter DIVW_BY_ZERO_RESULT (spec R243). -/
def divwResult (p : Params) (hl v : Word) : Word := if v = 0 then p.divwByZeroResult else hl / v

/-- DIVW (spec R243). Division by zero goes on like any other. -/
def execDivw (o : Src8) (s : State) : Result :=
  .next ((s.setHLZSH (divwResult s.params s.hl (s.srcWide o))).advance (Instr.divw o).length)

end Sys2Proof.Machine
end

