-- ==== Sys2Proof/Machine/Dispatch.lean ====
section
/-! DEFINITION. The handler table (spec R141): the meaning of every instruction. -/

namespace Sys2Proof.Machine

def exec (i : Instr) (s : State) : Host.Outcome State Fault Refusal :=
  match i with
  | .halt => Sys2Proof.Machine.execHalt s
  | .noop => Sys2Proof.Machine.execNoop s
  | .ei => Sys2Proof.Machine.execEi s
  | .di => Sys2Proof.Machine.execDi s
  | .et => Sys2Proof.Machine.execEt s
  | .dt => Sys2Proof.Machine.execDt s
  | .reset => Sys2Proof.Machine.execReset s
  | .unassigned op => Sys2Proof.Machine.execUnassigned op s
  | .jmp target => Sys2Proof.Machine.execJmp target s
  | .jz target => Sys2Proof.Machine.execJz target s
  | .jnz target => Sys2Proof.Machine.execJnz target s
  | .js target => Sys2Proof.Machine.execJs target s
  | .jns target => Sys2Proof.Machine.execJns target s
  | .jc target => Sys2Proof.Machine.execJc target s
  | .jnc target => Sys2Proof.Machine.execJnc target s
  | .jext mode mask target => Sys2Proof.Machine.execJext mode mask target s
  | .call target => Sys2Proof.Machine.execCall target s
  | .ret => Sys2Proof.Machine.execRet s
  | .retI n => Sys2Proof.Machine.execRetI n s
  | .enter n => Sys2Proof.Machine.execEnter n s
  | .leave => Sys2Proof.Machine.execLeave s
  | .ldhlI16 v => Sys2Proof.Machine.execLdhlI16 v s
  | .addhlI16 v => Sys2Proof.Machine.execAddhlI16 v s
  | .addlI8 v => Sys2Proof.Machine.execAddlI8 v s
  | .push o => Sys2Proof.Machine.execPush o s
  | .pop o => Sys2Proof.Machine.execPop o s
  | .load o => Sys2Proof.Machine.execLoad o s
  | .store o => Sys2Proof.Machine.execStore o s
  | .xch o => Sys2Proof.Machine.execXch o s
  | .clra => Sys2Proof.Machine.execClra s
  | .add o => Sys2Proof.Machine.execAdd o s
  | .adc o => Sys2Proof.Machine.execAdc o s
  | .sub o => Sys2Proof.Machine.execSub o s
  | .sbc o => Sys2Proof.Machine.execSbc o s
  | .and o => Sys2Proof.Machine.execAnd o s
  | .or o => Sys2Proof.Machine.execOr o s
  | .xor o => Sys2Proof.Machine.execXor o s
  | .cmp o => Sys2Proof.Machine.execCmp o s
  | .min o => Sys2Proof.Machine.execMin o s
  | .max o => Sys2Proof.Machine.execMax o s
  | .shl o => Sys2Proof.Machine.execShl o s
  | .shr o => Sys2Proof.Machine.execShr o s
  | .rol o => Sys2Proof.Machine.execRol o s
  | .ror o => Sys2Proof.Machine.execRor o s
  | .inc o => Sys2Proof.Machine.execInc o s
  | .incHL => Sys2Proof.Machine.execIncHL s
  | .dec o => Sys2Proof.Machine.execDec o s
  | .decHL => Sys2Proof.Machine.execDecHL s
  | .neg o => Sys2Proof.Machine.execNeg o s
  | .negHL => Sys2Proof.Machine.execNegHL s
  | .not o => Sys2Proof.Machine.execNot o s
  | .notHL => Sys2Proof.Machine.execNotHL s
  | .addw o => Sys2Proof.Machine.execAddw o s
  | .subw o => Sys2Proof.Machine.execSubw o s
  | .mulw o => Sys2Proof.Machine.execMulw o s
  | .divw o => Sys2Proof.Machine.execDivw o s

end Sys2Proof.Machine
end

