-- ==== Sys2Proof/Machine/External.lean ====
section
/-! DEFINITION. The two external collaborators, which touch MEM between steps (spec R72, R156). -/

namespace Sys2Proof.Machine

/-- Draw one external byte for each address of a list, in order: each takes an arbitrary value, the free
value `Config.externalByte` (spec R72, log entry 2). -/
def State.drawAt (s : State) : List Word → State
  | [] => s
  | x :: r => State.drawAt { s.memWrite x (Config.externalByte s.draws x) with draws := s.draws + 1 } r

/-- What the keyboard collaborator may do between two steps: every byte of EXTERNAL_WRITE_REGION takes an
arbitrary value (spec R72, D35). With the region empty, the default, nothing happens. -/
def State.drawExternal (s : State) : State := s.drawAt s.params.externalWriteRegion

/-- What the display collaborator reads: the bytes of DISPLAY_REGION, with their addresses. It has no
effect on the engine (spec R72, R156). -/
def State.displayRead (s : State) : List (Word × Byte) :=
  s.params.displayRegion.map fun x => (x, s.memRead x)

end Sys2Proof.Machine
end

