-- ==== Sys2Proof/Machine/Step.lean ====
section
/-! DEFINITION. One step of the engine (spec R140), and the placing of an instruction where it fetches. -/

namespace Sys2Proof.Machine

/-- One step: first the external writes that are pending (spec R324: "the write lands first and the step
sees it"), then the instruction at PC is fetched, decoded and executed (spec R140). -/
def step (s : State) : Host.Outcome State Fault Refusal :=
  let s1 := s.drawExternal
  exec s1.fetch s1

/-- The state with the instruction whose bits are `w` stored at PC, four bytes, those above `nbits`
zero. With EXTERNAL_WRITE_REGION empty, as at reset, `step` of it runs that instruction (log entry 7). -/
def State.withFetchWord (s : State) (nbits w : Nat) : State :=
  s.storeBytes s.pc [tableByte nbits w 0, tableByte nbits w 1, tableByte nbits w 2, tableByte nbits w 3]

end Sys2Proof.Machine
end

