-- ==== Sys2Proof/Machine/AsmLex.lean ====
section
/-! DEFINITION. The assembler's tokens (spec R120, R121, R122, R129): from the characters of one line to
tokens with their columns. The assembler is surrounding software, in scope where it fixes what the engine
sees (spec R4); it is no part of the machine's state or step. -/

namespace Sys2Proof.Machine

/-- The mnemonics of the assembler (spec R120). -/
inductive Mnem where
  | noop | halt | ei | di | et | dt | reset | leave | ret | load | store | xch
  | add | adc | sub | sbc | and | or | xor | cmp | inc | dec | neg | not
  | shl | shr | rol | ror | min | max | addw | subw | mulw | divw
  | jmp | js | jns | jz | jnz | jc | jnc | jext | call | push | pop | enter
  deriving DecidableEq, Repr

/-- The register names of the assembler (spec R120). -/
inductive RegName where
  | a | b | c | h | l | hl | bp | flags
  deriving DecidableEq, Repr

/-- A label's name (spec R122). -/
abbrev LabelName := List Char

/-- A token. -/
inductive Token where
  | mnem (m : Mnem)
  | reg (r : RegName)
  /-- a numeric literal -/
  | num (v : Nat)
  /-- a numeric literal to which the spec gives no value (spec U19, log entry 11) -/
  | badNum
  /-- `name:` -/
  | labelDef (n : LabelName)
  /-- `.name` -/
  | labelRef (n : LabelName)
  /-- label text that is neither, as in `name[expr]` -/
  | text (n : LabelName)
  /-- a quoted-bytes token -/
  | quoted (cs : List Char)
  /-- one of ( ) [ ] { } , + - = -/
  | punct (ch : Char)
  /-- an unknown token -/
  | unknown
  deriving DecidableEq, Repr

/-- A token and the column it starts at, from 1. -/
structure LexToken where
  tok : Token
  col : Nat
  deriving DecidableEq, Repr

/-- `{` -/
def openBrace : Char := Char.ofNat 123

/-- `}` -/
def closeBrace : Char := Char.ofNat 125

/-- The keywords that are mnemonics (spec R120). -/
def mnemTable : List (String × Mnem) :=
  [("NOOP", .noop), ("HALT", .halt), ("EI", .ei), ("DI", .di), ("ET", .et), ("DT", .dt), ("RESET", .reset),
   ("LEAVE", .leave), ("RET", .ret), ("LOAD", .load), ("STORE", .store), ("XCH", .xch)] ++
  [("ADD", .add), ("ADC", .adc), ("SUB", .sub), ("SBC", .sbc), ("AND", .and), ("OR", .or), ("XOR", .xor),
   ("CMP", .cmp), ("INC", .inc), ("DEC", .dec), ("NEG", .neg), ("NOT", .not)] ++
  [("SHL", .shl), ("SHR", .shr), ("ROL", .rol), ("ROR", .ror), ("MIN", .min), ("MAX", .max),
   ("ADDW", .addw), ("SUBW", .subw), ("MULW", .mulw), ("DIVW", .divw)] ++
  [("JMP", .jmp), ("JS", .js), ("JNS", .jns), ("JZ", .jz), ("JNZ", .jnz), ("JC", .jc), ("JNC", .jnc),
   ("JEXT", .jext), ("CALL", .call), ("PUSH", .push), ("POP", .pop), ("ENTER", .enter)]

/-- The keywords that are register names (spec R120, D3). -/
def regTable : List (String × RegName) :=
  [("A", .a), ("B", .b), ("C", .c), ("H", .h), ("L", .l), ("HL", .hl), ("BP", .bp), ("FLAGS", .flags)]

/-- The entry of a table for a word. -/
def keyword {α : Type} (table : List (String × α)) (w : List Char) : Option α :=
  (table.find? fun e => e.1.toList == w).map (·.2)

/-- The keyword token a word spells, case-sensitive (spec R120). -/
def keywordToken (w : List Char) : Option Token :=
  match keyword mnemTable w with
  | some m => some (.mnem m)
  | none => (keyword regTable w).map .reg

/-- A token delimiter within a line (spec R120: space, tab; newline and end of input end the line). -/
def isBlank (ch : Char) : Bool := ch == ' ' || ch == '\t'

/-- A decimal digit. -/
def isDigit (ch : Char) : Bool := decide (48 ≤ ch.toNat) && decide (ch.toNat ≤ 57)

/-- A lowercase letter. -/
def isLower (ch : Char) : Bool := decide (97 ≤ ch.toNat) && decide (ch.toNat ≤ 122)

/-- An uppercase letter. -/
def isUpper (ch : Char) : Bool := decide (65 ≤ ch.toNat) && decide (ch.toNat ≤ 90)

/-- A character of label text: "lowercase letters, digits, underscore" (spec R122). -/
def isLabelChar (ch : Char) : Bool := isLower ch || isDigit ch || ch == '_'

/-- A character of a word: of a keyword or of label text. -/
def isWordChar (ch : Char) : Bool := isLabelChar ch || isUpper ch

/-- The value of a hexadecimal digit, 16 for any other character. -/
def hexValue (ch : Char) : Nat :=
  if isDigit ch then ch.toNat - 48
  else if decide (97 ≤ ch.toNat) && decide (ch.toNat ≤ 102) then ch.toNat - 87
  else if decide (65 ≤ ch.toNat) && decide (ch.toNat ≤ 70) then ch.toNat - 55
  else 16

/-- A hexadecimal digit. -/
def isHex (ch : Char) : Bool := decide (hexValue ch < 16)

/-- The value of a run of digits; none where a digit is not one of the radix, or there is no digit
(spec U19). -/
def digitsValue (radix : Nat) (ds : List Char) : Option Nat :=
  if ds.isEmpty || ds.any fun ch => decide (radix ≤ hexValue ch) then none
  else some (ds.foldl (fun n ch => radix * n + hexValue ch) 0)

/-- The radix a marker selects, case-insensitive (spec R121). -/
def radixOf (ch : Char) : Option Nat :=
  if ch == 'b' || ch == 'B' then some 2
  else if ch == 'o' || ch == 'O' then some 8
  else if ch == 'x' || ch == 'X' then some 16
  else none

/-- The token of an optional value. -/
def numToken : Option Nat → Token
  | some v => .num v
  | none => .badNum

/-- A numeric literal and the characters after it (spec R121). `d` is the leading digit. A radix marker
after a leading digit other than 0 has no stated value (log entry 11). -/
def scanNumber (d : Char) (rest : List Char) : Token × List Char :=
  match rest with
  | m :: r =>
    match radixOf m with
    | some radix =>
      let (ds, r2) := r.span isHex
      (if d == '0' then numToken (digitsValue radix ds) else .badNum, r2)
    | none =>
      let (ds, r2) := rest.span isDigit
      (numToken (digitsValue 10 (d :: ds)), r2)
  | [] => (numToken (digitsValue 10 [d]), [])

/-- Whether the characters that follow a keyword bound it (spec R120). Inside a memory expression
`+`, `-` and a closing delimiter bound it too (spec R123, log entry 10), and a comment's `;` everywhere,
because a comment runs to the end of the line. -/
def boundsKeyword (inExpr : Bool) : List Char → Bool
  | [] => true
  | ch :: _ =>
    isBlank ch || ch == ';' ||
      (inExpr && (ch == '+' || ch == '-' || ch == ')' || ch == ']' || ch == closeBrace))

/-- Whether a keyword begins a word (spec R120). -/
def keywordPrefix (w : List Char) : Bool :=
  (mnemTable.any fun e => e.1.toList.isPrefixOf w) || regTable.any fun e => e.1.toList.isPrefixOf w

/-- Whether a word that is no keyword token is label text: "lowercase letters, digits, underscore" (spec
R122), or a word that a keyword begins, since "A keyword prefix not followed by a delimiter is label text"
(spec R120, log entry 10). -/
def isLabelText (w : List Char) : Bool := w.all isLabelChar || keywordPrefix w

/-- A word of label text, by what follows it (spec R122). -/
def labelToken (w : List Char) (rest : List Char) : Token × List Char :=
  if isLabelText w then
    match rest with
    | ':' :: r => (.labelDef w, r)
    | _ => (.text w, rest)
  else (.unknown, rest)

/-- A word and the characters after it: a keyword that is bounded, or label text (spec R120). -/
def scanWord (inExpr : Bool) (cs : List Char) : Token × List Char :=
  let (w, rest) := cs.span isWordChar
  match keywordToken w with
  | some t => if boundsKeyword inExpr rest then (t, rest) else labelToken w rest
  | none => labelToken w rest

/-- A label reference, after its `.` (spec R122): any label text, so that every label that can be defined
can be referred to. -/
def scanRef (cs : List Char) : Token × List Char :=
  let (w, rest) := cs.span isWordChar
  (if w.isEmpty || !isLabelText w then .unknown else .labelRef w, rest)

/-- A quoted-bytes token, after its opening quote (spec R129, log entry 10: the double quote, no
escapes). With no closing quote the rest of the line is one unknown token: the model's choice, as the spec is
silent (log entry 16). -/
def scanQuoted (cs : List Char) : Token × List Char :=
  let (w, rest) := cs.span (· != '"')
  match rest with
  | _ :: r => (.quoted w, r)
  | [] => (.unknown, [])

/-- One of the punctuation characters (spec R120). -/
def isPunct (ch : Char) : Bool :=
  ch == '(' || ch == ')' || ch == '[' || ch == ']' || ch == openBrace || ch == closeBrace ||
    ch == ',' || ch == '+' || ch == '-' || ch == '='

/-- Opens a memory expression. -/
def isOpener (ch : Char) : Bool := ch == '(' || ch == '[' || ch == openBrace

/-- Closes a memory expression. -/
def isCloser (ch : Char) : Bool := ch == ')' || ch == ']' || ch == closeBrace

/-- The token at the head of a line that is neither blank nor comment, and the rest. -/
def scanToken (inExpr : Bool) (ch : Char) (rest : List Char) : Token × List Char :=
  if isDigit ch then scanNumber ch rest
  else if isWordChar ch then scanWord inExpr (ch :: rest)
  else if ch == '.' then scanRef rest
  else if ch == '"' then scanQuoted rest
  else if isPunct ch then (.punct ch, rest)
  else (.unknown, rest)

/-- The tokens of a line. `n` is the line's length, which bounds the number of tokens; `col` is the
column of the first character, from 1; `inExpr` says whether a memory expression is open. -/
def lexFrom (n : Nat) (col : Nat) (inExpr : Bool) (cs : List Char) : List LexToken :=
  match n, cs with
  | 0, _ => []
  | _, [] => []
  | n + 1, ch :: rest =>
    if isBlank ch then lexFrom n (col + 1) inExpr rest
    else if ch == ';' then []
    else
      let (t, r) := scanToken inExpr ch rest
      let inside := if isOpener ch then true else if isCloser ch then false else inExpr
      ⟨t, col⟩ :: lexFrom n (col + (rest.length + 1 - r.length)) inside r

/-- The tokens of a line (spec R120). -/
def lexLine (cs : List Char) : List LexToken := lexFrom cs.length 1 false cs

/-- The lines of a source text. -/
def splitLines : List Char → List (List Char)
  | [] => [[]]
  | ch :: r =>
    match splitLines r with
    | [] => [[ch]]
    | line :: more => if ch == '\n' then [] :: line :: more else (ch :: line) :: more

end Sys2Proof.Machine
end

