-- ==== Sys2Proof/Machine/AsmGen.lean ====
section
/-! DEFINITION. Pass 1 of the assembler for one line (spec R122 to R129): operands, memory expressions, and
the instructions a line emits, synthetic ones among them. -/

namespace Sys2Proof.Machine

/-- The assembler's diagnostics (spec R132). -/
inductive DiagKind where
  | unknownToken
  | unexpectedToken
  | unexpectedEndOfLine
  | expectedComma
  | expectedOperator
  | operandSupplied
  | undefinedLabel
  | mismatchedDelimiter
  | multipleBase
  | invalidOperandType
  | invalidStackIndex
  | invalidIndexedIndex
  /-- the warning "an 8-bit immediate literal exceeds 255 and is truncated" -/
  | immediateTruncated
  deriving DecidableEq, Repr

/-- What stops a line: a diagnostic at a column, or a literal the spec gives no value (spec U19). -/
inductive LineStop where
  | diag (k : DiagKind) (col : Nat)
  | badLiteral
  deriving DecidableEq, Repr

/-- The base of a memory expression (spec R123). -/
inductive MemBase where
  /-- no base: the Immediate mode -/
  | absolute
  | hl
  | l
  | bp
  deriving DecidableEq, Repr

/-- A label use and the column of its reference. -/
structure LabelUse where
  name : LabelName
  col : Nat
  deriving DecidableEq, Repr

/-- An operand of an assembler line (spec R124). -/
inductive AsmOperand where
  | reg (r : RegName)
  | imm (v : Nat)
  /-- `( )` or an indexed label: a base, the accumulated offset, the label whose address is added -/
  | mem (base : MemBase) (k : Word) (label : Option LabelUse)
  /-- the brace form with base BP and offset k -/
  | frame (k : Word)
  | ref (u : LabelUse)
  deriving DecidableEq, Repr

/-- One emitted instruction; a label's address is added to its last two bytes in pass 2. -/
structure Emit where
  instr : Instr
  label : Option LabelUse
  deriving DecidableEq, Repr

/-- What a line emits, and the columns of its truncation warnings. -/
structure LineCode where
  emits : List Emit
  warnings : List Nat
  deriving DecidableEq, Repr

/-! ## Memory expressions (spec R123) -/

/-- Add a base to an expression: at most one may appear. -/
def MemBase.join (b new : MemBase) : Option MemBase := if b = .absolute then some new else none

/-- The base a register name stands for in a memory expression. -/
def RegName.base : RegName → Option MemBase
  | .hl => some .hl
  | .l => some .l
  | .bp => some .bp
  | .a | .b | .c | .h | .flags => none

/-- The terms of a memory expression up to its closing delimiter: the base, the offset accumulated in 16
bits, and the tokens after the delimiter. `neg` is the sign of the next term. A base takes a sign as a
literal does; it sets the mode and adds nothing to the offset, whatever its sign (spec R123, log entry 10).
`eol` is the column of the line's end. -/
def memTerms (closer : Char) (eol : Nat) (base : MemBase) (k : Word) (neg : Bool) :
    List LexToken → Except LineStop (MemBase × Word × List LexToken)
  | [] => .error (.diag .unexpectedEndOfLine eol)
  | t :: rest =>
    let next (base : MemBase) (k : Word) : Except LineStop (MemBase × Word × List LexToken) :=
      match rest with
      | [] => .error (.diag .unexpectedEndOfLine eol)
      | p :: r =>
        match p.tok with
        | .punct ch =>
          if ch == '+' then memTerms closer eol base k false r
          else if ch == '-' then memTerms closer eol base k true r
          else if ch == closer then .ok (base, k, r)
          else if isCloser ch then .error (.diag .mismatchedDelimiter p.col)
          else .error (.diag .unexpectedToken p.col)
        | .badNum => .error .badLiteral
        | .unknown => .error (.diag .unknownToken p.col)
        | _ => .error (.diag .unexpectedToken p.col)
    match t.tok with
    | .num v => next base (if neg then k - BitVec.ofNat 16 v else k + BitVec.ofNat 16 v)
    | .reg r =>
      match r.base with
      | none => .error (.diag .unexpectedToken t.col)
      | some b =>
        match base.join b with
        | none => .error (.diag .multipleBase t.col)
        | some b2 => next b2 k
    | .badNum => .error .badLiteral
    | .unknown => .error (.diag .unknownToken t.col)
    | _ => .error (.diag .unexpectedToken t.col)

/-- A memory expression after its opening delimiter: an optional leading sign, then the terms. -/
def memExpr (closer : Char) (eol : Nat) (ts : List LexToken) :
    Except LineStop (MemBase × Word × List LexToken) :=
  match ts with
  | [] => .error (.diag .unexpectedEndOfLine eol)
  | t :: rest =>
    if t.tok = .punct '-' then memTerms closer eol .absolute 0 true rest
    else if t.tok = .punct '+' then memTerms closer eol .absolute 0 false rest
    else memTerms closer eol .absolute 0 false ts

/-- One operand and the tokens after it (spec R123, R124). The brace form requires a BP base; an indexed
label accepts only no base or HL. Which diagnostic a token draws that begins no operand is the model's
choice (log entry 16). -/
def parseOperand (eol : Nat) : List LexToken → Except LineStop (AsmOperand × List LexToken)
  | [] => .error (.diag .unexpectedEndOfLine eol)
  | t :: rest =>
    match t.tok with
    | .reg r => .ok (.reg r, rest)
    | .num v => .ok (.imm v, rest)
    | .labelRef n => .ok (.ref ⟨n, t.col⟩, rest)
    | .punct ch =>
      if ch == '(' then
        match memExpr ')' eol rest with
        | .error e => .error e
        | .ok (base, k, r) => .ok (.mem base k none, r)
      else if ch == openBrace then
        match memExpr closeBrace eol rest with
        | .error e => .error e
        | .ok (base, k, r) => if base = .bp then .ok (.frame k, r) else .error (.diag .invalidStackIndex t.col)
      else .error (.diag .unexpectedToken t.col)
    | .text n =>
      match rest with
      | [] => .error (.diag .unexpectedToken t.col)
      | b :: r0 =>
        if b.tok = .punct '[' then
          match memExpr ']' eol r0 with
          | .error e => .error e
          | .ok (base, k, r) =>
            if base = .absolute ∨ base = .hl then .ok (.mem base k (some ⟨n, t.col⟩), r)
            else .error (.diag .invalidIndexedIndex b.col)
        else .error (.diag .unexpectedToken t.col)
    | .badNum => .error .badLiteral
    | .unknown => .error (.diag .unknownToken t.col)
    | .mnem _ | .labelDef _ | .quoted _ => .error (.diag .unexpectedToken t.col)

/-! ## Expansion (spec R125 to R127) -/

/-- The 8-bit register of a register name. -/
def RegName.reg8 : RegName → Option Reg8
  | .a => some .a
  | .b => some .b
  | .c => some .c
  | .h => some .h
  | .l => some .l
  | .hl | .bp | .flags => none

/-- The synthetic instructions an operand needs before the access, the operand form of the access, and
the label of the access itself (spec R125). `direct` is the column "LOAD, STORE, XCH": an absolute operand
is an (a16) form; otherwise it is LDHL_I16 and the (HL) form. An indexed label with an HL base always emits
ADDHL_I16 (D40). The frame byte is offset + 1 (spec R126). -/
def expand (direct : Bool) : AsmOperand → Option (List Emit × Src8 × Option LabelUse)
  | .reg r => r.reg8.map fun q => ([], .reg q, none)
  | .imm v => some ([], .imm (BitVec.ofNat 8 v), none)
  | .frame k => some ([], .frame (loByte (k + 1)), none)
  | .mem .absolute k u =>
    if direct then some ([], .abs k, u) else some ([⟨.ldhlI16 k, u⟩], .hlInd, none)
  | .mem .hl k u =>
    if k = 0 ∧ u = none then some ([], .hlInd, none) else some ([⟨.addhlI16 k, u⟩], .hlInd, none)
  | .mem .l k none =>
    if k = 0 then some ([], .lInd, none) else some ([⟨.addlI8 (loByte k), none⟩], .lInd, none)
  | .mem .l _ (some _) => none
  | .mem .bp _ _ => none
  | .ref _ => none

/-- The destination form of a source form; imm8 is "never a destination" (spec R95). -/
def toLoc : Src8 → Option Loc8
  | .reg r => some (.reg r)
  | .abs x => some (.abs x)
  | .hlInd => some .hlInd
  | .lInd => some .lInd
  | .frame d => some (.frame d)
  | .imm _ => none

/-- The warning an operand draws: an 8-bit immediate above 255 is emitted as its low 8 bits (spec R121). An
offset on L or BP is reduced modulo 256 without one: the model's choice, as the spec is silent (log entry
18). -/
def truncation (col : Nat) : AsmOperand → List Nat
  | .imm v => if 255 < v then [col] else []
  | .reg _ | .mem _ _ _ | .frame _ | .ref _ => []

/-- A line of one operand: expand it, build the instruction, and refuse a form that spec R124 does not
give the mnemonic. -/
def genForm (direct : Bool) (mk : Src8 → Option Instr) (o : AsmOperand) (col : Nat) :
    Except LineStop LineCode :=
  match expand direct o with
  | none => .error (.diag .invalidOperandType col)
  | some (pre, form, u) =>
    match mk form with
    | none => .error (.diag .invalidOperandType col)
    | some i =>
      if i.wf then .ok ⟨pre ++ [⟨i, u⟩], truncation col o⟩ else .error (.diag .invalidOperandType col)

/-- The mnemonics that take a source operand and expand an absolute one through HL (spec R124, R125). -/
def Mnem.srcForm : Mnem → Option (Src8 → Instr)
  | .add => some .add
  | .adc => some .adc
  | .sub => some .sub
  | .sbc => some .sbc
  | .and => some .and
  | .or => some .or
  | .xor => some .xor
  | .cmp => some .cmp
  | .shl => some .shl
  | .shr => some .shr
  | .rol => some .rol
  | .ror => some .ror
  | .min => some .min
  | .max => some .max
  | _ => none

/-- The wide mnemonics, which take no memory operand (spec R124). -/
def Mnem.wideForm : Mnem → Option (Src8 → Instr)
  | .addw => some .addw
  | .subw => some .subw
  | .mulw => some .mulw
  | .divw => some .divw
  | _ => none

/-- The unary mnemonics: the 8-bit form and the HL form (spec R124). -/
def Mnem.unaryForm : Mnem → Option ((Loc8 → Instr) × Instr)
  | .inc => some (.inc, .incHL)
  | .dec => some (.dec, .decHL)
  | .neg => some (.neg, .negHL)
  | .not => some (.not, .notHL)
  | _ => none

/-- The jumps with one 16-bit target (spec R124). -/
def Mnem.jumpForm : Mnem → Option (Word → Instr)
  | .jmp => some .jmp
  | .jz => some .jz
  | .jnz => some .jnz
  | .js => some .js
  | .jns => some .jns
  | .jc => some .jc
  | .jnc => some .jnc
  | _ => none

/-- The mnemonics that take no operand (spec R124). -/
def Mnem.plainForm : Mnem → Option Instr
  | .noop => some .noop
  | .halt => some .halt
  | .ei => some .ei
  | .di => some .di
  | .et => some .et
  | .dt => some .dt
  | .reset => some .reset
  | .leave => some .leave
  | _ => none

/-- A 16-bit target: a literal, modulo 65536 (log entry 11), or a label reference, a zero placeholder
(spec R122). -/
def genTarget (mk : Word → Instr) (o : AsmOperand) (col : Nat) : Except LineStop Emit :=
  match o with
  | .imm v => .ok ⟨mk (BitVec.ofNat 16 v), none⟩
  | .ref u => .ok ⟨mk 0, some u⟩
  | .reg _ | .mem _ _ _ | .frame _ => .error (.diag .invalidOperandType col)

/-- PUSH's operand (spec R124). -/
def genPush (o : AsmOperand) (col : Nat) : Except LineStop LineCode :=
  match o with
  | .imm v => .ok ⟨[⟨.push (.imm (BitVec.ofNat 8 v)), none⟩], truncation col o⟩
  | .reg .bp => .ok ⟨[⟨.push .bp, none⟩], []⟩
  | .reg .flags => .ok ⟨[⟨.push .flags, none⟩], []⟩
  | .reg r =>
    match r.reg8 with
    | some q => .ok ⟨[⟨.push (.reg q), none⟩], []⟩
    | none => .error (.diag .invalidOperandType col)
  | .mem _ _ _ | .frame _ | .ref _ => .error (.diag .invalidOperandType col)

/-- POP's operand (spec R124). -/
def genPop (o : AsmOperand) (col : Nat) : Except LineStop LineCode :=
  match o with
  | .reg .bp => .ok ⟨[⟨.pop .bp, none⟩], []⟩
  | .reg .flags => .ok ⟨[⟨.pop .flags, none⟩], []⟩
  | .reg r =>
    match r.reg8 with
    | some q => .ok ⟨[⟨.pop (.reg q), none⟩], []⟩
    | none => .error (.diag .invalidOperandType col)
  | .imm _ | .mem _ _ _ | .frame _ | .ref _ => .error (.diag .invalidOperandType col)

/-- An 8-bit count operand (ENTER n, RET n). -/
def genCount (mk : Byte → Instr) (o : AsmOperand) (col : Nat) : Except LineStop LineCode :=
  match o with
  | .imm v => .ok ⟨[⟨mk (BitVec.ofNat 8 v), none⟩], truncation col o⟩
  | .reg _ | .mem _ _ _ | .frame _ | .ref _ => .error (.diag .invalidOperandType col)

/-- The code of a mnemonic with one operand (spec R124, R125, R127). -/
def genOne (m : Mnem) (o : AsmOperand) (col : Nat) : Except LineStop LineCode :=
  match m with
  | .load => if o = .imm 0 then .ok ⟨[⟨.clra, none⟩], []⟩ else genForm true (fun f => some (.load f)) o col
  | .store => genForm true (fun f => (toLoc f).map .store) o col
  | .xch => genForm true (fun f => (toLoc f).map .xch) o col
  | .push => genPush o col
  | .pop => genPop o col
  | .enter => genCount .enter o col
  | .ret => genCount .retI o col
  | .call =>
    match o with
    | .ref _ => (genTarget .call o col).map fun e => ⟨[e], []⟩
    | _ => .error (.diag .invalidOperandType col)
  | m =>
    match m.srcForm, m.wideForm, m.unaryForm, m.jumpForm with
    | some mk, _, _, _ => genForm false (fun f => some (mk f)) o col
    | none, some mk, _, _ => genForm true (fun f => some (mk f)) o col
    | none, none, some (mk, onHL), _ =>
      if o = .reg .hl then .ok ⟨[⟨onHL, none⟩], []⟩ else genForm false (fun f => (toLoc f).map mk) o col
    | none, none, none, some mk => (genTarget mk o col).map fun e => ⟨[e], []⟩
    | none, none, none, none => .error (.diag .unexpectedToken col)

/-- The two fields of JEXT's m8 byte (spec R267). -/
def jextFields (m : Byte) : JextMode × BitVec 6 := (jextMode m, m.extractLsb' 0 6)

/-- JEXT's operands: "an 8-bit flag-mask immediate, a comma, then a 16-bit immediate or label reference"
(spec R267). Which diagnostic a token in the wrong place draws is the model's choice (log entry 16). -/
def genJext (eol : Nat) (ts : List LexToken) : Except LineStop LineCode :=
  match ts with
  | [] => .error (.diag .unexpectedEndOfLine eol)
  | t :: rest =>
    match parseOperand eol ts with
    | .error e => .error e
    | .ok (.imm v, _) =>
      match rest with
      | [] => .error (.diag .unexpectedEndOfLine eol)
      | comma :: r =>
        if comma.tok = .punct ',' then
          match parseOperand eol r with
          | .error e => .error e
          | .ok (o, []) =>
            let fields := jextFields (BitVec.ofNat 8 v)
            (genTarget (.jext fields.1 fields.2) o comma.col).map fun e => ⟨[e], truncation t.col (.imm v)⟩
          | .ok (_, extra :: _) => .error (.diag .unexpectedToken extra.col)
        else .error (.diag .expectedComma comma.col)
    | .ok (_, _) => .error (.diag .invalidOperandType t.col)

/-- The code of an operator line, the tokens after its mnemonic (spec R124, R128). A token where none is due,
an unrecognised one too, draws operandSupplied after an operand-less mnemonic and unexpectedToken after an
operand: the model's choice, as the spec is silent (log entry 16). -/
def genOperator (m : Mnem) (eol : Nat) (ts : List LexToken) : Except LineStop LineCode :=
  match m.plainForm with
  | some i =>
    match ts with
    | [] => .ok ⟨[⟨i, none⟩], []⟩
    | t :: _ => .error (.diag .operandSupplied t.col)
  | none =>
    if m = .jext then genJext eol ts
    else
      match ts with
      | [] => if m = .ret then .ok ⟨[⟨.ret, none⟩], []⟩ else .error (.diag .unexpectedEndOfLine eol)
      | t :: _ =>
        match parseOperand eol ts with
        | .error e => .error e
        | .ok (o, []) => genOne m o t.col
        | .ok (_, extra :: _) => .error (.diag .unexpectedToken extra.col)

/-! ## Raw data (spec R129) -/

/-- "that literal (and every immediately-following numeric literal on the line) as successive data
bytes", each truncated to 8 bits with a warning above 255 (spec R129). -/
def genData : List LexToken → Except LineStop (List Byte × List Nat)
  | [] => .ok ([], [])
  | t :: rest =>
    match t.tok with
    | .num v =>
      match genData rest with
      | .error e => .error e
      | .ok (bs, ws) => .ok (BitVec.ofNat 8 v :: bs, if 255 < v then t.col :: ws else ws)
    | .badNum => .error .badLiteral
    | .unknown => .error (.diag .unknownToken t.col)
    | _ => .error (.diag .unexpectedToken t.col)

/-- What a line is. -/
inductive Line where
  | empty
  | label (n : LabelName)
  | constant (n : LabelName) (v : Nat)
  | code (lc : LineCode)
  | data (bs : List Byte) (warnings : List Nat)
  deriving DecidableEq, Repr

/-- A line's tokens read as a line (spec R122, R124, R129). A label stands on its own line (log entry 10). A
line that begins with a label reference but is no definition of a constant draws expectedOperator at the
reference, whatever its other tokens: the model's choice, as the spec is silent (log entry 16). -/
def parseLine (eol : Nat) (ts : List LexToken) : Except LineStop Line :=
  match ts with
  | [] => .ok .empty
  | t :: rest =>
    match t.tok with
    | .mnem m => (genOperator m eol rest).map .code
    | .num _ => (genData ts).map fun d => .data d.1 d.2
    | .quoted cs =>
      match rest with
      | [] => .ok (.data (cs.map fun ch => BitVec.ofNat 8 ch.toNat) [])
      | e :: _ => .error (.diag .unexpectedToken e.col)
    | .labelDef n =>
      match rest with
      | [] => .ok (.label n)
      | e :: _ => .error (.diag .unexpectedToken e.col)
    | .labelRef n =>
      match rest with
      | [⟨.punct '=', _⟩, ⟨.num v, _⟩] => .ok (.constant n v)
      | [⟨.punct '=', _⟩, ⟨.badNum, _⟩] => .error .badLiteral
      | _ => .error (.diag .expectedOperator t.col)
    | .badNum => .error .badLiteral
    | .unknown => .error (.diag .unknownToken t.col)
    | .reg _ | .text _ | .punct _ => .error (.diag .expectedOperator t.col)

end Sys2Proof.Machine
end

