-- ==== Sys2Proof/Machine/Assembler.lean ====
section
/-! DEFINITION. The two passes of the assembler and the executable it makes (spec R122, R130 to R133). -/

namespace Sys2Proof.Machine

/-- A diagnostic, with its line from 1 and its column from 1 (spec R132). -/
structure Diag where
  kind : DiagKind
  line : Nat
  col : Nat
  deriving DecidableEq, Repr

/-- A place where pass 2 adds a label's address: an offset in the code, and the reference. -/
structure PatchSite where
  offset : Nat
  name : LabelName
  line : Nat
  col : Nat
  deriving DecidableEq, Repr

/-- What pass 1 has produced so far. -/
structure Pass1 where
  /-- the generated code, without the reserved prefix -/
  code : List Byte
  /-- label and constant definitions, in one table in order of definition (log entry 17) -/
  labels : List (LabelName × Word)
  sites : List PatchSite
  diags : List Diag
  deriving DecidableEq, Repr

/-- What an assembly gives: the code with its addresses patched, and the diagnostics. -/
structure Assembled where
  code : List Byte
  diags : List Diag
  deriving DecidableEq, Repr

/-- Why the model gives a source text no meaning. -/
inductive AsmRefusal where
  /-- a numeric literal whose value the spec does not give (spec U19), on a line -/
  | badLiteral (line : Nat)
  deriving DecidableEq, Repr

/-- Add a definition; a second definition of a name is ignored (spec R133, D39). That an address label and a
constant of one name are two definitions of it, so that the later is ignored whichever it is, is the model's
choice, as the spec is silent (log entry 17). -/
def addLabel (labels : List (LabelName × Word)) (n : LabelName) (v : Word) : List (LabelName × Word) :=
  if labels.any fun e => e.1 == n then labels else labels ++ [(n, v)]

/-- The value of a label. -/
def labelValue (labels : List (LabelName × Word)) (n : LabelName) : Option Word :=
  (labels.find? fun e => e.1 == n).map (·.2)

/-- Emit one instruction; a label's address goes to its last two bytes (spec R91: the 16-bit field of
formats F3 and F4 is last). -/
def Pass1.emit (p : Pass1) (line : Nat) (e : Emit) : Pass1 :=
  let code := p.code ++ encode e.instr
  { p with
    code := code
    sites := match e.label with
      | none => p.sites
      | some u => p.sites ++ [⟨code.length - 2, u.name, line, u.col⟩] }

/-- The diagnostics of truncation warnings. -/
def truncationDiags (line : Nat) (cols : List Nat) : List Diag :=
  cols.map fun c => ⟨.immediateTruncated, line, c⟩

/-- Pass 1 on one line of a text whose executable starts with `start` reserved bytes. "Assembly continues
after a diagnostic" (spec R132); what a rejected line emits is free (log entry 12). -/
def Pass1.line (start : Nat) (p : Pass1) (n : Nat) (cs : List Char) : Except AsmRefusal Pass1 :=
  match parseLine (cs.length + 1) (lexLine cs) with
  | .error .badLiteral => .error (.badLiteral n)
  | .error (.diag k col) =>
    .ok { p with code := p.code ++ Config.rejectedLineBytes n, diags := p.diags ++ [⟨k, n, col⟩] }
  | .ok .empty => .ok p
  | .ok (.label name) => .ok { p with labels := addLabel p.labels name (BitVec.ofNat 16 (start + p.code.length)) }
  | .ok (.constant name v) => .ok { p with labels := addLabel p.labels name (BitVec.ofNat 16 v) }
  | .ok (.code lc) =>
    let q := lc.emits.foldl (fun q e => q.emit n e) p
    .ok { q with diags := q.diags ++ truncationDiags n lc.warnings }
  | .ok (.data bs ws) => .ok { p with code := p.code ++ bs, diags := p.diags ++ truncationDiags n ws }

/-- Pass 1 on the lines from number `n` on. -/
def Pass1.lines (start : Nat) (p : Pass1) (n : Nat) : List (List Char) → Except AsmRefusal Pass1
  | [] => .ok p
  | cs :: r =>
    match p.line start n cs with
    | .error e => .error e
    | .ok q => q.lines start (n + 1) r

/-- The bytes of the code at a patch site, high byte first (spec R130). -/
def siteBase (code : List Byte) (offset : Nat) : Word :=
  joinBytes (code.getD offset 0) (code.getD (offset + 1) 0)

/-- "the resolved 16-bit address is added to that base, and the sum's high/low bytes are written back"
(spec R130), modulo 65536, high byte first. -/
def patchAt (code : List Byte) (offset : Nat) (v : Word) : List Byte :=
  let sum := siteBase code offset + v
  (code.set offset (hiByte sum)).set (offset + 1) (loByte sum)

/-- Pass 2: patch every site whose label is defined; an undefined label leaves its placeholder and draws
a diagnostic (spec R130, R132). -/
def patchAll (labels : List (LabelName × Word)) (a : Assembled) : List PatchSite → Assembled
  | [] => a
  | site :: r =>
    match labelValue labels site.name with
    | some v => patchAll labels { a with code := patchAt a.code site.offset v } r
    | none => patchAll labels { a with diags := a.diags ++ [⟨.undefinedLabel, site.line, site.col⟩] } r

/-- Assemble a source text: pass 1 over its lines, "a terminal HALT opcode", pass 2 (spec R130, R131). -/
def assemble (params : Params) (src : List Char) : Except AsmRefusal Assembled :=
  match Pass1.lines params.programStart.toNat ⟨[], [], [], []⟩ 1 (splitLines src) with
  | .error e => .error e
  | .ok p => .ok (patchAll p.labels ⟨p.code ++ encode .halt, p.diags⟩ p.sites)

/-- The executable: PROGRAM_START zero bytes, then the code (spec R131). The host loads it at address 0. -/
def Assembled.image (params : Params) (a : Assembled) : List Byte :=
  List.replicate params.programStart.toNat 0 ++ a.code

end Sys2Proof.Machine
end

