-- ==== Sys2Proof/Machine/HostPort.lean ====
section
/-! DEFINITION. The host's transactions on the engine (spec R150 to R155): functions over State, never part
of a step. -/

namespace Sys2Proof.Machine

/-- INIT (spec R150): the "after initialize" column of spec R50. The block's parameters stay. -/
def State.hostInit (s : State) : State := State.initial s.params s.draws

/-- LOAD (spec R151): copy the bytes into MEM from address 0; a sequence longer than MEM is refused. -/
def State.hostLoad (s : State) (bytes : List Byte) : Result :=
  if memSize < bytes.length then .refused .loadTooLong else .next (s.storeBytes 0 bytes)

/-- The opcode byte that the next step fetches, and that it returns (spec R140, R146). -/
def State.nextOpcode (s : State) : Byte := s.drawExternal.fetch8 0

/-- STEP (spec R152): one step, and the opcode value it returns. -/
def State.hostStep (s : State) : Result × Byte := (step s, s.nextOpcode)

/-- RESET, the host's (spec R154): the same effect as the RESET instruction. -/
def State.hostReset (s : State) : State := s.resetAll

/-- "The engine is halted in a state s exactly when MemRead(s.PC, 1) == 0x00" (spec R148). -/
def State.halted (s : State) : Bool := s.memRead s.pc == 0

/-- Whether RUN pauses on the state a step has left: F.T is set (spec R155, D33). -/
def State.pauses (s : State) : Bool := s.flag .t

/-- How a RUN comes to rest. -/
inductive RunEnd where
  /-- a step returned 0x00 (HALT): the run is over (spec R153) -/
  | halted (s : State)
  /-- the last step left F.T set: the block waits for the host to continue (spec R155) -/
  | paused (s : State)
  /-- the host stopped the run between two steps (spec R153) -/
  | stopped (s : State)
  /-- a step gave no next state; no step does (spec R147) -/
  | stuck
  deriving DecidableEq, Repr

/-- RUN (spec R153), stopped by the host after at most `n` steps: repeat STEP until it returns 0x00,
pausing after a step whose resulting state has F.T set (spec R155). A host that continues a paused run
issues RUN again. -/
def State.hostRun (s : State) : Nat → RunEnd
  | 0 => .stopped s
  | n + 1 =>
    match s.hostStep with
    | (.next t, op) => if op = 0 then .halted t else if t.pauses then .paused t else t.hostRun n
    | (.fault _, _) => .stuck
    | (.refused _, _) => .stuck

end Sys2Proof.Machine
end

