-- ==== Sys2Proof/Safety.lean ====
section
/-! DEFINITION. The terms in which claims speak of runs: the invariant of the representation, and what a
step leaves alone. -/

namespace Sys2Proof.Machine

/-- MEM and STACK are in canonical form, within their sizes (spec R46, R47). -/
def State.Inv (s : State) : Prop :=
  s.mem.wf memSize = true ∧ s.stack.wf stackSize = true

/-- Every byte of MEM reads as before, but at the address `x?`, if there is one. -/
def MemKeptBut (x? : Option Word) (s t : State) : Prop :=
  ∀ x : Word, some x ≠ x? → t.memRead x = s.memRead x

/-- Every cell of STACK reads as before, but at the indices of the list. -/
def StackKeptBut (is : List Byte) (s t : State) : Prop :=
  ∀ i : Byte, i ∉ is → t.stackRead i = s.stackRead i

/-- Every bit of F is as before, but those of the list. -/
def FlagsKeptBut (fls : List Flag) (s t : State) : Prop :=
  ∀ fl : Flag, fl ∉ fls → t.flag fl = s.flag fl

/-- The 8-bit registers A, B, C, H and L are as before, but those of the list. -/
def RegsKeptBut (rs : List Reg8) (s t : State) : Prop :=
  ∀ r : Reg8, r ∉ rs → t.reg r = s.reg r

/-- SP and BP are as before. -/
def PointersKept (s t : State) : Prop := t.sp = s.sp ∧ t.bp = s.bp

/-- The model's own fields, the parameters and the count of external draws, are as before. -/
def OwnKept (s t : State) : Prop := t.params = s.params ∧ t.draws = s.draws

/-- The frame of an instruction, but for PC, SP and BP: what it may change are the flags `fls`, the
registers `rs`, the byte of MEM at `x?` and the cells of STACK at `is`. -/
def KeptBut (fls : List Flag) (rs : List Reg8) (x? : Option Word) (is : List Byte) (s t : State) : Prop :=
  FlagsKeptBut fls s t ∧ RegsKeptBut rs s t ∧ MemKeptBut x? s t ∧ StackKeptBut is s t ∧ OwnKept s t

/-- Z and S describe the 8-bit value `v` (spec R9, setZS8). -/
def ZS8Of (t : State) (v : Byte) : Prop := t.flag .z = decide (v = 0) ∧ t.flag .s = v.getLsbD 7

/-- Z and S describe the 16-bit value `v` (spec R9, setZS16). -/
def ZS16Of (t : State) (v : Word) : Prop := t.flag .z = decide (v = 0) ∧ t.flag .s = v.getLsbD 15

/-- PC is at the instruction after `i` (spec R143). -/
def NextAfter (i : Instr) (s t : State) : Prop := t.pc.toNat = (s.pc.toNat + i.length) % 65536

/-- The location that `o` names in `s` holds `v` in `t` (spec R95). -/
def LocHolds (s t : State) (o : Loc8) (v : Byte) : Prop :=
  match o with
  | .reg r => t.reg r = v
  | .abs x => t.memRead x = v
  | .hlInd => t.memRead s.hl = v
  | .lInd => t.memRead s.lAddr = v
  | .frame d => t.stackRead (s.frameIndex d) = v

/-- The register a destination form writes, if it writes one. -/
def locRegs : Loc8 → List Reg8
  | .reg r => [r]
  | .abs _ | .hlInd | .lInd | .frame _ => []

/-- The register a POP form writes, if it is one of A, B, C, H and L. -/
def popRegs : PopDst → List Reg8
  | .reg r => [r]
  | .bp | .flags => []

/-- The register a POP form names holds `v` in `t` (spec R281). -/
def PopHolds (t : State) (o : PopDst) (v : Byte) : Prop :=
  match o with
  | .reg r => t.reg r = v
  | .bp => t.bp = v
  | .flags => t.f = v

/-- The address of MEM an instruction stores to, if it stores to MEM (spec R62). RESET is not a store. -/
def memStore (s : State) : Instr → Option Word
  | .store o | .xch o | .inc o | .dec o | .neg o | .not o => s.locMemAddr o
  | _ => none

/-- The indices of STACK an instruction stores to (spec R46, R65). RESET is not a store. -/
def stackStores (s : State) : Instr → List Byte
  | .store o | .xch o | .inc o | .dec o | .neg o | .not o => (s.locStackIndex o).toList
  | .push _ | .enter _ => [s.sp]
  | .call _ => [s.sp, s.sp + 1]
  | _ => []

/-- The instructions that may write a flag (spec R36, column "written by"; R38 for Z and S). -/
def mayWrite (i : Instr) (fl : Flag) : Bool :=
  match fl, i with
  | _, .reset | _, .pop .flags => true
  | .c, .add _ | .c, .adc _ | .c, .sub _ | .c, .sbc _ => true
  | .c, .inc _ | .c, .incHL | .c, .dec _ | .c, .decHL => true
  | .i, .ei | .i, .di => true
  | .t, .et | .t, .dt => true
  | .z, i | .s, i => writesZS i
  | .c, _ | .o, _ | .ac, _ | .i, _ | .t, _ | .r7, _ => false
where
  /-- the families of spec R38 -/
  writesZS : Instr → Bool
  | .load _ | .clra | .store _ | .xch _ => true
  | .add _ | .adc _ | .sub _ | .sbc _ | .and _ | .or _ | .xor _ | .cmp _ => true
  | .min _ | .max _ | .shl _ | .shr _ | .rol _ | .ror _ => true
  | .inc _ | .incHL | .dec _ | .decHL | .neg _ | .negHL | .not _ | .notHL => true
  | .addw _ | .subw _ | .mulw _ | .divw _ => true
  | .push o => o != .flags
  | .pop _ => true
  | _ => false

/-- The six flags JEXT can test, "the low 6 flag bits" (spec R267). -/
def jextFlags : List Flag := [.c, .z, .s, .o, .ac, .i]

/-- JEXT's condition in terms of single flags: whether any or all of the flags its mask selects are set
or clear (spec R267). -/
def JextCondition (mode : JextMode) (mask : BitVec 6) (s : State) : Prop :=
  match mode with
  | .anySet => ∃ fl ∈ jextFlags, mask.getLsbD fl.bit = true ∧ s.flag fl = true
  | .allSet => ∀ fl ∈ jextFlags, mask.getLsbD fl.bit = true → s.flag fl = true
  | .allClear => ∀ fl ∈ jextFlags, mask.getLsbD fl.bit = true → s.flag fl = false
  | .anyClear => ∃ fl ∈ jextFlags, mask.getLsbD fl.bit = true ∧ s.flag fl = false

/-- The source operand that names a destination's location (spec R95). -/
def locSrc : Loc8 → Src8
  | .reg r => .reg r
  | .abs x => .abs x
  | .hlInd => .hlInd
  | .lInd => .lInd
  | .frame d => .frame d

/-- The mnemonics whose absolute operand is an (a16) form (spec R125, first column), each with its
instruction. -/
def directMnems : List (Mnem × (Loc8 → Instr)) :=
  [(.load, fun o => .load (locSrc o)), (.store, .store), (.xch, .xch)]

/-- The mnemonics whose absolute operand goes through HL: "ALU, SHL..ROR, MIN, MAX, INC, DEC, NEG, NOT" (spec
R125, second column, R359), each with its instruction. -/
def throughHLMnems : List (Mnem × (Loc8 → Instr)) :=
  [(.add, fun o => .add (locSrc o)), (.adc, fun o => .adc (locSrc o)), (.sub, fun o => .sub (locSrc o)),
   (.sbc, fun o => .sbc (locSrc o)), (.and, fun o => .and (locSrc o)), (.or, fun o => .or (locSrc o)),
   (.xor, fun o => .xor (locSrc o)), (.cmp, fun o => .cmp (locSrc o)), (.shl, fun o => .shl (locSrc o)),
   (.shr, fun o => .shr (locSrc o)), (.rol, fun o => .rol (locSrc o)), (.ror, fun o => .ror (locSrc o)),
   (.min, fun o => .min (locSrc o)), (.max, fun o => .max (locSrc o)),
   (.inc, .inc), (.dec, .dec), (.neg, .neg), (.not, .not)]

/-- A line's code is these instructions in this order, each with the label whose address pass 2 adds, and the
line draws no warning. -/
def Emits (r : Except LineStop LineCode) (is : List (Instr × Option LabelUse)) : Prop :=
  r = .ok ⟨is.map fun e => ⟨e.1, e.2⟩, []⟩

/-- `n` steps, stopping at the first that gives no next state. -/
def steps : Nat → State → Result
  | 0, s => .next s
  | n + 1, s =>
    match step s with
    | .next t => steps n t
    | .fault r => .fault r
    | .refused r => .refused r

/-- RUN neither ends nor pauses at the step from `s`: it does not return 0x00, and it leaves F.T clear (spec
R153, R155). -/
def RunGoesOn (s : State) : Prop := s.nextOpcode ≠ 0 ∧ ∃ t, step s = .next t ∧ t.flag .t = false

/-- RUN from `s` does not come to rest within its first `n` steps: it goes on at each of the states it
reaches before them. -/
def RunGoesOnFor (n : Nat) (s : State) : Prop := ∀ j, j < n → ∃ u, steps j s = .next u ∧ RunGoesOn u

/-- The opcode, operand forms and operand byte of a row of the ALU region (spec R94, R96): selectors 1 to
7, and the frame form. -/
def AluRowDecodes (mk : Src8 → Instr) (base frameOp : Byte) : Prop :=
  ∀ b1 b2 b3 : Byte,
    decode (base + 1) b1 b2 b3 = mk (.reg .b) ∧ decode (base + 2) b1 b2 b3 = mk (.reg .c) ∧
    decode (base + 3) b1 b2 b3 = mk (.reg .h) ∧ decode (base + 4) b1 b2 b3 = mk (.reg .l) ∧
    decode (base + 5) b1 b2 b3 = mk (.imm b1) ∧ decode (base + 6) b1 b2 b3 = mk .hlInd ∧
    decode (base + 7) b1 b2 b3 = mk .lInd ∧ decode frameOp b1 b2 b3 = mk (.frame b1)

/-- A row of the ALU region whose selector 0 is the accumulator (spec R94, R96). -/
def FullAluRowDecodes (mk : Src8 → Instr) (base frameOp : Byte) : Prop :=
  (∀ b1 b2 b3 : Byte, decode base b1 b2 b3 = mk (.reg .a)) ∧ AluRowDecodes mk base frameOp

/-- A row of the unary region (spec R94, R96): selectors 0 to 7 but 5, and the frame form. -/
def UnaryRowDecodes (mk : Loc8 → Instr) (base frameOp : Byte) : Prop :=
  ∀ b1 b2 b3 : Byte,
    decode base b1 b2 b3 = mk (.reg .a) ∧ decode (base + 1) b1 b2 b3 = mk (.reg .b) ∧
    decode (base + 2) b1 b2 b3 = mk (.reg .c) ∧ decode (base + 3) b1 b2 b3 = mk (.reg .h) ∧
    decode (base + 4) b1 b2 b3 = mk (.reg .l) ∧ decode (base + 6) b1 b2 b3 = mk .hlInd ∧
    decode (base + 7) b1 b2 b3 = mk .lInd ∧ decode frameOp b1 b2 b3 = mk (.frame b1)

/-- The (a16), register, (HL) and (L) forms of STORE and XCH (spec R94, R96). -/
def DataRowDecodes (mk : Loc8 → Instr) (base : Byte) : Prop :=
  ∀ b1 b2 b3 : Byte,
    decode base b1 b2 b3 = mk (.abs (joinBytes b1 b2)) ∧ decode (base + 1) b1 b2 b3 = mk (.reg .b) ∧
    decode (base + 2) b1 b2 b3 = mk (.reg .c) ∧ decode (base + 3) b1 b2 b3 = mk (.reg .h) ∧
    decode (base + 4) b1 b2 b3 = mk (.reg .l) ∧ decode (base + 6) b1 b2 b3 = mk .hlInd ∧
    decode (base + 7) b1 b2 b3 = mk .lInd

/-- The four forms of a wide instruction (spec R92). -/
def WideRowDecodes (mk : Src8 → Instr) (base : Byte) : Prop :=
  ∀ b1 b2 b3 : Byte,
    decode base b1 b2 b3 = mk (.reg .a) ∧ decode (base + 1) b1 b2 b3 = mk (.reg .b) ∧
    decode (base + 2) b1 b2 b3 = mk (.reg .c) ∧ decode (base + 3) b1 b2 b3 = mk (.imm b1)

end Sys2Proof.Machine
end

