-- ==== Sys2Proof/Certificates/Slice0/Obligations.lean ====
section
/-! DEFINITION. The statements for the provers, in the order of OBLIGATIONS.json. A docstring names the rule
of the spec a statement formalises. Where a clause rests on a decision the spec marks as its own
(92_eei_decisions.md), the docstring names the decision and the statement is 'derived'. The opcode numbers,
throughout, are those of the Encoding lines of the rules and of R96. -/

open Sys2Proof
open Sys2Proof.Machine

/-! ## Data movement (file 41) -/

/-- R160. LOAD copies the operand to A, sets Z and S from it, and changes nothing else, for every operand
form LOAD has; and the opcodes of those forms decode to it. -/
def Obligations.LoadCopiesOperandToAccumulator : Prop :=
  (AluRowDecodes .load 0x28 0xE2 ∧ ∀ b1 b2 b3 : Byte, decode 0x28 b1 b2 b3 = .load (.abs (joinBytes b1 b2))) ∧
  ∀ (o : Src8) (s : State), (Instr.load o).wf = true →
    ∃ t, exec (.load o) s = .next t ∧ t.a = s.src8 o ∧ ZS8Of t (s.src8 o) ∧ NextAfter (.load o) s t ∧
      PointersKept s t ∧ KeptBut [.z, .s] [.a] none [] s t

/-- R161. CLRA clears A, sets Z, clears S, and changes nothing else. -/
def Obligations.ClraClearsAccumulator : Prop :=
  (∀ b1 b2 b3 : Byte, decode 0xE4 b1 b2 b3 = .clra) ∧
  ∀ s : State, ∃ t, exec .clra s = .next t ∧ t.a = 0 ∧ t.flag .z = true ∧ t.flag .s = false ∧
    NextAfter .clra s t ∧ PointersKept s t ∧ KeptBut [.z, .s] [.a] none [] s t

/-- R162. STORE writes A to the operand's location and nowhere else; Z and S describe A. -/
def Obligations.StoreWritesAccumulatorToItsLocationOnly : Prop :=
  DataRowDecodes .store 0x30 ∧
  ∀ (o : Loc8) (s : State), (Instr.store o).wf = true →
    ∃ t, exec (.store o) s = .next t ∧ LocHolds s t o s.a ∧ t.a = s.a ∧ ZS8Of t s.a ∧
      NextAfter (.store o) s t ∧ PointersKept s t ∧ KeptBut [.z, .s] (locRegs o) (s.locMemAddr o) [] s t

/-- R163. XCH exchanges A with the operand's location; Z and S describe the new A. -/
def Obligations.XchSwapsAccumulatorWithItsLocation : Prop :=
  (DataRowDecodes .xch 0x38 ∧ ∀ b1 b2 b3 : Byte, decode 0xE3 b1 b2 b3 = .xch (.frame b1)) ∧
  ∀ (o : Loc8) (s : State), (Instr.xch o).wf = true →
    ∃ t, exec (.xch o) s = .next t ∧ t.a = s.readLoc o ∧ LocHolds s t o s.a ∧ ZS8Of t (s.readLoc o) ∧
      NextAfter (.xch o) s t ∧ PointersKept s t ∧
      KeptBut [.z, .s] (.a :: locRegs o) (s.locMemAddr o) (s.locStackIndex o).toList s t

/-- R164 to R166, whose flag behaviour is the spec's own choice (D27). LDHL_I16 loads HL, ADDHL_I16 adds
to HL modulo 65536, ADDL_I8 adds to L modulo 256 with H kept. None writes a flag. The opcodes of R96 (D1)
decode to these forms. -/
def Obligations.SyntheticAddressInstructionsWriteHLOnly : Prop :=
  (∀ b1 b2 b3 : Byte, decode 0x15 b1 b2 b3 = .ldhlI16 (joinBytes b1 b2) ∧
    decode 0x16 b1 b2 b3 = .addhlI16 (joinBytes b1 b2) ∧ decode 0x17 b1 b2 b3 = .addlI8 b1) ∧
  (∀ (v : Word) (s : State), ∃ t, exec (.ldhlI16 v) s = .next t ∧ t.hl = v ∧
    NextAfter (.ldhlI16 v) s t ∧ PointersKept s t ∧ KeptBut [] [.h, .l] none [] s t) ∧
  (∀ (v : Word) (s : State), ∃ t, exec (.addhlI16 v) s = .next t ∧
    t.hl.toNat = (s.hl.toNat + v.toNat) % 65536 ∧
    NextAfter (.addhlI16 v) s t ∧ PointersKept s t ∧ KeptBut [] [.h, .l] none [] s t) ∧
  (∀ (v : Byte) (s : State), ∃ t, exec (.addlI8 v) s = .next t ∧ t.l.toNat = (s.l.toNat + v.toNat) % 256 ∧
    NextAfter (.addlI8 v) s t ∧ PointersKept s t ∧ KeptBut [] [.l] none [] s t)

/-! ## Accumulator ALU (file 42) -/

/-- R180. ADD: the exact sum modulo 256; C is set iff it exceeds 255; Z and S describe the result. -/
def Obligations.AddStoresTheSumAndSetsCarryOnOverflow : Prop :=
  ((∀ b1 b2 b3 : Byte, decode 0x40 b1 b2 b3 = .add (.reg .a)) ∧ AluRowDecodes .add 0x40 0xD0) ∧
  ∀ (o : Src8) (s : State), (Instr.add o).wf = true →
    ∃ t, exec (.add o) s = .next t ∧ t.a.toNat = (s.a.toNat + (s.src8 o).toNat) % 256 ∧
      t.flag .c = decide (s.a.toNat + (s.src8 o).toNat > 255) ∧ ZS8Of t t.a ∧
      NextAfter (.add o) s t ∧ PointersKept s t ∧ KeptBut [.c, .z, .s] [.a] none [] s t

/-- R182. SUB: the difference modulo 256; C is set iff the operand exceeds A. -/
def Obligations.SubStoresTheDifferenceAndSetsBorrow : Prop :=
  ((∀ b1 b2 b3 : Byte, decode 0x50 b1 b2 b3 = .sub (.reg .a)) ∧ AluRowDecodes .sub 0x50 0xD2) ∧
  ∀ (o : Src8) (s : State), (Instr.sub o).wf = true →
    ∃ t, exec (.sub o) s = .next t ∧ (t.a.toNat : Int) = ((s.a.toNat : Int) - (s.src8 o).toNat) % 256 ∧
      t.flag .c = decide (s.a.toNat < (s.src8 o).toNat) ∧ ZS8Of t t.a ∧
      NextAfter (.sub o) s t ∧ PointersKept s t ∧ KeptBut [.c, .z, .s] [.a] none [] s t

/-- R181 and R183; that the carry in and the borrow in are F.C is the spec's own choice (D12). ADC and
SBC: the exact sum, or difference, with F.C, modulo 256; C is set iff the exact sum exceeds 255, or the
exact difference is negative. The opcodes of R96 (D1) decode to these forms. -/
def Obligations.AdcAddsAndSbcSubtractsTheCarryFlag : Prop :=
  (FullAluRowDecodes .adc 0x48 0xD1 ∧ FullAluRowDecodes .sbc 0x58 0xD3) ∧
  (∀ (o : Src8) (s : State), (Instr.adc o).wf = true →
    ∃ t, exec (.adc o) s = .next t ∧
      t.a.toNat = (s.a.toNat + (s.src8 o).toNat + (s.flag .c).toNat) % 256 ∧
      t.flag .c = decide (s.a.toNat + (s.src8 o).toNat + (s.flag .c).toNat > 255) ∧ ZS8Of t t.a ∧
      NextAfter (.adc o) s t ∧ PointersKept s t ∧ KeptBut [.c, .z, .s] [.a] none [] s t) ∧
  (∀ (o : Src8) (s : State), (Instr.sbc o).wf = true →
    ∃ t, exec (.sbc o) s = .next t ∧
      (t.a.toNat : Int) = ((s.a.toNat : Int) - (s.src8 o).toNat - (s.flag .c).toNat) % 256 ∧
      t.flag .c = decide (s.a.toNat < (s.src8 o).toNat + (s.flag .c).toNat) ∧ ZS8Of t t.a ∧
      NextAfter (.sbc o) s t ∧ PointersKept s t ∧ KeptBut [.c, .z, .s] [.a] none [] s t)

/-- R184 to R186; that C is unchanged is the spec's own choice (D11). AND, OR and XOR: each bit of the
result; Z and S describe it; C and every other flag are kept. The opcodes of R96 (D1) decode to these
forms. -/
def Obligations.LogicInstructionsCombineBitsAndKeepCarry : Prop :=
  (FullAluRowDecodes .and 0x60 0xD4 ∧ FullAluRowDecodes .or 0x68 0xD5 ∧
    FullAluRowDecodes .xor 0x70 0xD6) ∧
  ∀ (o : Src8) (s : State), (Instr.and o).wf = true →
    (∃ t, exec (.and o) s = .next t ∧
      (∀ k, t.a.getLsbD k = (s.a.getLsbD k && (s.src8 o).getLsbD k)) ∧ ZS8Of t t.a ∧
      NextAfter (.and o) s t ∧ PointersKept s t ∧ KeptBut [.z, .s] [.a] none [] s t) ∧
    (∃ t, exec (.or o) s = .next t ∧
      (∀ k, t.a.getLsbD k = (s.a.getLsbD k || (s.src8 o).getLsbD k)) ∧ ZS8Of t t.a ∧
      NextAfter (.or o) s t ∧ PointersKept s t ∧ KeptBut [.z, .s] [.a] none [] s t) ∧
    (∃ t, exec (.xor o) s = .next t ∧
      (∀ k, t.a.getLsbD k = ((s.a.getLsbD k) ^^ ((s.src8 o).getLsbD k))) ∧ ZS8Of t t.a ∧
      NextAfter (.xor o) s t ∧ PointersKept s t ∧ KeptBut [.z, .s] [.a] none [] s t)

/-- R187; that C is not written is the spec's own choice (D11). CMP: Z iff A equals the operand, S is bit
7 of the difference; A, C and everything else are kept. The opcodes of R96 (D1) decode to these forms. -/
def Obligations.CmpSetsZeroAndSignOfTheDifferenceOnly : Prop :=
  (FullAluRowDecodes .cmp 0x78 0xD7) ∧
  ∀ (o : Src8) (s : State), (Instr.cmp o).wf = true →
    ∃ t, exec (.cmp o) s = .next t ∧ t.flag .z = decide (s.a = s.src8 o) ∧
      t.flag .s = decide (((s.a.toNat : Int) - (s.src8 o).toNat) % 256 ≥ 128) ∧
      NextAfter (.cmp o) s t ∧ PointersKept s t ∧ KeptBut [.z, .s] [] none [] s t

/-! ## Unary (file 43) -/

/-- R200 and R202; that they work in place is the spec's own choice (D14). INC and DEC on an 8-bit
operand: the result modulo 256, C on the wrap, Z and S of the result. The opcodes of R96 (D1) decode to
these forms. -/
def Obligations.IncAndDecStepTheirLocationAndSetCarryOnWrap : Prop :=
  (UnaryRowDecodes .inc 0xB0 0xDE ∧ UnaryRowDecodes .dec 0xB8 0xDF) ∧
  (∀ (o : Loc8) (s : State), (Instr.inc o).wf = true →
    ∃ (t : State) (r : Byte), exec (.inc o) s = .next t ∧ r.toNat = ((s.readLoc o).toNat + 1) % 256 ∧
      LocHolds s t o r ∧ ZS8Of t r ∧ t.flag .c = decide ((s.readLoc o).toNat = 255) ∧
      NextAfter (.inc o) s t ∧ PointersKept s t ∧
      KeptBut [.c, .z, .s] (locRegs o) (s.locMemAddr o) (s.locStackIndex o).toList s t) ∧
  (∀ (o : Loc8) (s : State), (Instr.dec o).wf = true →
    ∃ (t : State) (r : Byte), exec (.dec o) s = .next t ∧ r.toNat = ((s.readLoc o).toNat + 255) % 256 ∧
      LocHolds s t o r ∧ ZS8Of t r ∧ t.flag .c = decide ((s.readLoc o).toNat = 0) ∧
      NextAfter (.dec o) s t ∧ PointersKept s t ∧
      KeptBut [.c, .z, .s] (locRegs o) (s.locMemAddr o) (s.locStackIndex o).toList s t)

/-- R204 and R206; that they work in place and leave C unchanged is the spec's own choice (D14, D11). NEG
and NOT on an 8-bit operand: the two's complement, and the complement of every bit. The opcodes of R96
(D1) decode to these forms. -/
def Obligations.NegAndNotReplaceTheirLocationAndKeepCarry : Prop :=
  (UnaryRowDecodes .neg 0xC0 0xE0 ∧ UnaryRowDecodes .not 0xC8 0xE1) ∧
  (∀ (o : Loc8) (s : State), (Instr.neg o).wf = true →
    ∃ (t : State) (r : Byte), exec (.neg o) s = .next t ∧ r.toNat = (256 - (s.readLoc o).toNat) % 256 ∧
      LocHolds s t o r ∧ ZS8Of t r ∧ NextAfter (.neg o) s t ∧ PointersKept s t ∧
      KeptBut [.z, .s] (locRegs o) (s.locMemAddr o) (s.locStackIndex o).toList s t) ∧
  (∀ (o : Loc8) (s : State), (Instr.not o).wf = true →
    ∃ (t : State) (r : Byte), exec (.not o) s = .next t ∧ r.toNat = 255 - (s.readLoc o).toNat ∧
      LocHolds s t o r ∧ ZS8Of t r ∧ NextAfter (.not o) s t ∧ PointersKept s t ∧
      KeptBut [.z, .s] (locRegs o) (s.locMemAddr o) (s.locStackIndex o).toList s t)

/-- R201, R203, R205 and R207, whose flags are the spec's own choice (D15, D11). The HL forms of INC, DEC,
NEG and NOT: the 16-bit result, Z and S of it, C on the 16-bit wrap for INC and DEC only. The opcodes of
R96 (D1) decode to these forms. -/
def Obligations.UnaryHLFormsWriteThePairAndItsFlags : Prop :=
  (∀ b1 b2 b3 : Byte, decode 0xB5 b1 b2 b3 = .incHL ∧ decode 0xBD b1 b2 b3 = .decHL ∧
    decode 0xC5 b1 b2 b3 = .negHL ∧ decode 0xCD b1 b2 b3 = .notHL) ∧
  ∀ s : State,
    (∃ t, exec .incHL s = .next t ∧ t.hl.toNat = (s.hl.toNat + 1) % 65536 ∧ ZS16Of t t.hl ∧
      t.flag .c = decide (s.hl.toNat = 65535) ∧ NextAfter .incHL s t ∧ PointersKept s t ∧
      KeptBut [.c, .z, .s] [.h, .l] none [] s t) ∧
    (∃ t, exec .decHL s = .next t ∧ t.hl.toNat = (s.hl.toNat + 65535) % 65536 ∧ ZS16Of t t.hl ∧
      t.flag .c = decide (s.hl.toNat = 0) ∧ NextAfter .decHL s t ∧ PointersKept s t ∧
      KeptBut [.c, .z, .s] [.h, .l] none [] s t) ∧
    (∃ t, exec .negHL s = .next t ∧ t.hl.toNat = (65536 - s.hl.toNat) % 65536 ∧ ZS16Of t t.hl ∧
      NextAfter .negHL s t ∧ PointersKept s t ∧ KeptBut [.z, .s] [.h, .l] none [] s t) ∧
    (∃ t, exec .notHL s = .next t ∧ t.hl.toNat = 65535 - s.hl.toNat ∧ ZS16Of t t.hl ∧
      NextAfter .notHL s t ∧ PointersKept s t ∧ KeptBut [.z, .s] [.h, .l] none [] s t)

/-! ## Shifts, rotates, minimum, maximum (file 44) -/

/-- R220 to R223; the count's width, the logical right shift and the untouched C are the spec's own choice
(D16, D11). SHL, SHR, ROL and ROR by the low three bits of the operand, bit by bit; Z and S describe the
result, C is kept. The opcodes of R96 (D1) decode to these forms. -/
def Obligations.ShiftsAndRotatesMoveEachBitByTheLowThreeBits : Prop :=
  (AluRowDecodes .shl 0x90 0xDA ∧ AluRowDecodes .shr 0x98 0xDB ∧ AluRowDecodes .rol 0xA0 0xDC ∧
    AluRowDecodes .ror 0xA8 0xDD) ∧
  ∀ (o : Src8) (s : State), (Instr.shl o).wf = true →
    (∃ t, exec (.shl o) s = .next t ∧
      t.a.toNat = (s.a.toNat * 2 ^ ((s.src8 o).toNat % 8)) % 256 ∧ ZS8Of t t.a ∧
      NextAfter (.shl o) s t ∧ PointersKept s t ∧ KeptBut [.z, .s] [.a] none [] s t) ∧
    (∃ t, exec (.shr o) s = .next t ∧
      t.a.toNat = s.a.toNat / 2 ^ ((s.src8 o).toNat % 8) ∧ ZS8Of t t.a ∧
      NextAfter (.shr o) s t ∧ PointersKept s t ∧ KeptBut [.z, .s] [.a] none [] s t) ∧
    (∃ t, exec (.rol o) s = .next t ∧
      (∀ k, k < 8 → t.a.getLsbD ((k + (s.src8 o).toNat) % 8) = s.a.getLsbD k) ∧ ZS8Of t t.a ∧
      NextAfter (.rol o) s t ∧ PointersKept s t ∧ KeptBut [.z, .s] [.a] none [] s t) ∧
    (∃ t, exec (.ror o) s = .next t ∧
      (∀ k, k < 8 → t.a.getLsbD k = s.a.getLsbD ((k + (s.src8 o).toNat) % 8)) ∧ ZS8Of t t.a ∧
      NextAfter (.ror o) s t ∧ PointersKept s t ∧ KeptBut [.z, .s] [.a] none [] s t)

/-- R224 and R225; that the comparison is unsigned is the spec's own choice (D17). MIN and MAX. The
opcodes of R96 (D1) decode to these forms. -/
def Obligations.MinAndMaxCompareUnsigned : Prop :=
  (FullAluRowDecodes .min 0x80 0xD8 ∧ FullAluRowDecodes .max 0x88 0xD9) ∧
  ∀ (o : Src8) (s : State), (Instr.min o).wf = true →
    (∃ t, exec (.min o) s = .next t ∧ t.a.toNat = Nat.min s.a.toNat (s.src8 o).toNat ∧ ZS8Of t t.a ∧
      NextAfter (.min o) s t ∧ PointersKept s t ∧ KeptBut [.z, .s] [.a] none [] s t) ∧
    (∃ t, exec (.max o) s = .next t ∧ t.a.toNat = Nat.max s.a.toNat (s.src8 o).toNat ∧ ZS8Of t t.a ∧
      NextAfter (.max o) s t ∧ PointersKept s t ∧ KeptBut [.z, .s] [.a] none [] s t)

/-! ## Wide arithmetic (file 45) -/

/-- R240 to R242; the operand's width, Z and S of H alone, and the low half of the product are the spec's
own choice (D18, D19, D20, D11). ADDW, SUBW and MULW on HL modulo 65536; C is kept. The opcodes of R96
(D1) decode to these forms. -/
def Obligations.WideAddSubMulWrapAndFlagTheHighByte : Prop :=
  (WideRowDecodes .addw 0xE8 ∧ WideRowDecodes .subw 0xEC ∧ WideRowDecodes .mulw 0xF0) ∧
  ∀ (o : Src8) (s : State), (Instr.addw o).wf = true →
    (∃ t, exec (.addw o) s = .next t ∧ t.hl.toNat = (s.hl.toNat + (s.src8 o).toNat) % 65536 ∧ ZS8Of t t.h ∧
      NextAfter (.addw o) s t ∧ PointersKept s t ∧ KeptBut [.z, .s] [.h, .l] none [] s t) ∧
    (∃ t, exec (.subw o) s = .next t ∧
      (t.hl.toNat : Int) = ((s.hl.toNat : Int) - (s.src8 o).toNat) % 65536 ∧ ZS8Of t t.h ∧
      NextAfter (.subw o) s t ∧ PointersKept s t ∧ KeptBut [.z, .s] [.h, .l] none [] s t) ∧
    (∃ t, exec (.mulw o) s = .next t ∧ t.hl.toNat = (s.hl.toNat * (s.src8 o).toNat) % 65536 ∧ ZS8Of t t.h ∧
      NextAfter (.mulw o) s t ∧ PointersKept s t ∧ KeptBut [.z, .s] [.h, .l] none [] s t)

/-- R243; the rounding, and the parameter a zero divisor gives, are the spec's own choice (D21). DIVW
completes for every divisor and every value of DIVW_BY_ZERO_RESULT. The opcodes of R96 (D1) decode to
these forms. -/
def Obligations.DivwDividesOrGivesTheParameter : Prop :=
  (WideRowDecodes .divw 0xF4) ∧
  ∀ (o : Src8) (s : State), (Instr.divw o).wf = true →
    ∃ t, exec (.divw o) s = .next t ∧
      t.hl.toNat = (if (s.src8 o).toNat = 0 then s.params.divwByZeroResult.toNat
        else s.hl.toNat / (s.src8 o).toNat) ∧
      ZS8Of t t.h ∧ NextAfter (.divw o) s t ∧ PointersKept s t ∧ KeptBut [.z, .s] [.h, .l] none [] s t

/-- R244 (derived from R240 and R241): ADDW then SUBW with the same source value restores HL, whatever operand
forms (A, B, C, imm8) the two have. -/
def Obligations.SubwUndoesAddw : Prop :=
  ∀ (o o' : Src8) (s : State), (Instr.addw o).wf = true → (Instr.subw o').wf = true → s.src8 o' = s.src8 o →
    ∃ t u, exec (.addw o) s = .next t ∧ exec (.subw o') t = .next u ∧ u.hl = s.hl

/-! ## Control transfer (file 46) -/

/-- R260. JMP sets PC to its target and changes nothing else. -/
def Obligations.JmpSetsProgramCounter : Prop :=
  (∀ b1 b2 b3 : Byte, decode 0x08 b1 b2 b3 = .jmp (joinBytes b1 b2)) ∧
  ∀ (x : Word) (s : State), ∃ t, exec (.jmp x) s = .next t ∧ t.pc = x ∧
    PointersKept s t ∧ KeptBut [] [] none [] s t

/-- R261 to R266; the address after a jump not taken is the spec's own choice (D22). The six conditional
jumps: the target when the flag has the value, else PC + 3 modulo 65536; nothing else changes. The opcodes
of R96 (D1) decode to these forms. -/
def Obligations.ConditionalJumpsTestOneFlag : Prop :=
  (∀ b1 b2 b3 : Byte, decode 0x09 b1 b2 b3 = .jz (joinBytes b1 b2) ∧
    decode 0x0A b1 b2 b3 = .jnz (joinBytes b1 b2) ∧ decode 0x0B b1 b2 b3 = .js (joinBytes b1 b2) ∧
    decode 0x0C b1 b2 b3 = .jns (joinBytes b1 b2) ∧ decode 0x0D b1 b2 b3 = .jc (joinBytes b1 b2) ∧
    decode 0x0E b1 b2 b3 = .jnc (joinBytes b1 b2)) ∧
  ∀ (x : Word) (s : State), ∀ e ∈ [(Instr.jz x, Flag.z, true), (Instr.jnz x, Flag.z, false),
      (Instr.js x, Flag.s, true), (Instr.jns x, Flag.s, false), (Instr.jc x, Flag.c, true),
      (Instr.jnc x, Flag.c, false)],
    ∃ t, exec e.1 s = .next t ∧
      t.pc.toNat = (if s.flag e.2.1 = e.2.2 then x.toNat else (s.pc.toNat + 3) % 65536) ∧
      PointersKept s t ∧ KeptBut [] [] none [] s t

/-- R267; the layout of m8, the order of the modes and the advance of a JEXT not taken are the spec's own
choice (D23, D24). For every value of the parameter JEXT_NOT_TAKEN_ADVANCE, in terms of single flags. The
opcodes of R96 (D1) decode to these forms. -/
def Obligations.JextTestsTheMaskedFlags : Prop :=
  (∀ (mask : BitVec 6) (b2 b3 : Byte),
    decode 0x0F (0b00#2 ++ mask) b2 b3 = .jext .anySet mask (joinBytes b2 b3) ∧
    decode 0x0F (0b01#2 ++ mask) b2 b3 = .jext .allSet mask (joinBytes b2 b3) ∧
    decode 0x0F (0b10#2 ++ mask) b2 b3 = .jext .allClear mask (joinBytes b2 b3) ∧
    decode 0x0F (0b11#2 ++ mask) b2 b3 = .jext .anyClear mask (joinBytes b2 b3)) ∧
  ∀ (mode : JextMode) (mask : BitVec 6) (x : Word) (s : State),
    ∃ t, exec (.jext mode mask x) s = .next t ∧
      (JextCondition mode mask s → t.pc = x) ∧
      (¬ JextCondition mode mask s →
        t.pc.toNat = (s.pc.toNat + s.params.jextNotTakenAdvance.bytes) % 65536) ∧
      PointersKept s t ∧ KeptBut [] [] none [] s t

/-- R268; that the stack grows upward from SP and wraps is the spec's own choice (D7, D8). CALL pushes the
return address, high byte then low byte, and jumps; no flag is written. The opcodes of R96 (D1) decode to
these forms. -/
def Obligations.CallPushesReturnAddressHighByteFirst : Prop :=
  (∀ b1 b2 b3 : Byte, decode 0x10 b1 b2 b3 = .call (joinBytes b1 b2)) ∧
  ∀ (x : Word) (s : State), ∃ t, exec (.call x) s = .next t ∧ t.pc = x ∧
    (t.stackRead s.sp).toNat = ((s.pc.toNat + 3) % 65536) / 256 ∧
    (t.stackRead (s.sp + 1)).toNat = ((s.pc.toNat + 3) % 65536) % 256 ∧
    t.sp.toNat = (s.sp.toNat + 2) % 256 ∧ t.bp = s.bp ∧ KeptBut [] [] none [s.sp, s.sp + 1] s t

/-- R269; the stack's direction and wrap are the spec's own choice (D7, D8). RET pops the low byte, then
the high byte, into PC; no flag is written, no cell changes. The opcodes of R96 (D1) decode to these
forms. -/
def Obligations.RetPopsLowByteThenHighByte : Prop :=
  (∀ b1 b2 b3 : Byte, decode 0x11 b1 b2 b3 = .ret) ∧
  ∀ s : State, ∃ t, exec .ret s = .next t ∧
    t.pc.toNat = (s.stackRead (s.sp - 2)).toNat * 256 + (s.stackRead (s.sp - 1)).toNat ∧
    t.sp.toNat = (s.sp.toNat + 254) % 256 ∧ t.bp = s.bp ∧ KeptBut [] [] none [] s t

/-- R270; that the discard comes after the pops, and the stack's direction and wrap, are the spec's own
choice (D25, D7, D8). RET_I pops as RET does and then lowers SP by n more. The opcodes of R96 (D1) decode
to these forms. -/
def Obligations.RetIDiscardsAfterThePops : Prop :=
  (∀ b1 b2 b3 : Byte, decode 0x12 b1 b2 b3 = .retI b1) ∧
  ∀ (n : Byte) (s : State), ∃ t, exec (.retI n) s = .next t ∧
    t.pc.toNat = (s.stackRead (s.sp - 2)).toNat * 256 + (s.stackRead (s.sp - 1)).toNat ∧
    (t.sp.toNat : Int) = ((s.sp.toNat : Int) - 2 - n.toNat) % 256 ∧ t.bp = s.bp ∧ KeptBut [] [] none [] s t

/-! ## Stack (file 47) -/

/-- R280; that PUSH FLAGS updates no flag, and the stack's direction and wrap, are the spec's own choice
(D26, D7, D8). PUSH writes STACK at SP and increments SP; Z and S describe the byte, but for PUSH FLAGS.
The opcodes of R96 (D1) decode to these forms. -/
def Obligations.PushWritesOneCellAndIncrementsSP : Prop :=
  (∀ b1 b2 b3 : Byte, decode 0x18 b1 b2 b3 = .push (.reg .a) ∧
    decode 0x19 b1 b2 b3 = .push (.reg .b) ∧ decode 0x1A b1 b2 b3 = .push (.reg .c) ∧
    decode 0x1B b1 b2 b3 = .push (.reg .h) ∧ decode 0x1C b1 b2 b3 = .push (.reg .l) ∧
    decode 0x1D b1 b2 b3 = .push .bp ∧ decode 0x1E b1 b2 b3 = .push .flags ∧
    decode 0x1F b1 b2 b3 = .push (.imm b1)) ∧
  ∀ (o : PushSrc) (s : State), ∃ t, exec (.push o) s = .next t ∧ t.stackRead s.sp = s.pushValue o ∧
    t.sp.toNat = (s.sp.toNat + 1) % 256 ∧ t.bp = s.bp ∧
    (o ≠ .flags → ZS8Of t (s.pushValue o)) ∧ (o = .flags → t.f = s.f) ∧
    NextAfter (.push o) s t ∧ KeptBut [.z, .s] [] none [s.sp] s t

/-- R281; that POP FLAGS leaves F equal to the byte, and the stack's direction and wrap, are the spec's
own choice (D26, D7, D8). POP decrements SP and moves the byte there into its register; no cell changes.
The opcodes of R96 (D1) decode to these forms. -/
def Obligations.PopMovesTheTopByte : Prop :=
  (∀ b1 b2 b3 : Byte, decode 0x20 b1 b2 b3 = .pop (.reg .a) ∧
    decode 0x21 b1 b2 b3 = .pop (.reg .b) ∧ decode 0x22 b1 b2 b3 = .pop (.reg .c) ∧
    decode 0x23 b1 b2 b3 = .pop (.reg .h) ∧ decode 0x24 b1 b2 b3 = .pop (.reg .l) ∧
    decode 0x25 b1 b2 b3 = .pop .bp ∧ decode 0x26 b1 b2 b3 = .pop .flags) ∧
  ∀ (o : PopDst) (s : State), ∃ t, exec (.pop o) s = .next t ∧ t.sp.toNat = (s.sp.toNat + 255) % 256 ∧
    (∀ r, o = .reg r → t.reg r = s.stackRead (s.sp - 1)) ∧
    t.bp = (if o = .bp then s.stackRead (s.sp - 1) else s.bp) ∧
    (o = .flags → t.f = s.stackRead (s.sp - 1)) ∧
    (o ≠ .flags → ZS8Of t (s.stackRead (s.sp - 1)) ∧ FlagsKeptBut [.z, .s] s t) ∧
    RegsKeptBut (popRegs o) s t ∧ MemKeptBut none s t ∧ StackKeptBut [] s t ∧ OwnKept s t ∧
    NextAfter (.pop o) s t

/-- R282; the stack's direction and wrap are the spec's own choice (D7, D8). ENTER pushes BP, sets BP to
the new SP, and adds n to SP; no flag is written. The opcodes of R96 (D1) decode to these forms. -/
def Obligations.EnterOpensAFrame : Prop :=
  (∀ b1 b2 b3 : Byte, decode 0x13 b1 b2 b3 = .enter b1) ∧
  ∀ (n : Byte) (s : State), ∃ t, exec (.enter n) s = .next t ∧ t.stackRead s.sp = s.bp ∧
    t.bp.toNat = (s.sp.toNat + 1) % 256 ∧ t.sp.toNat = (s.sp.toNat + 1 + n.toNat) % 256 ∧
    NextAfter (.enter n) s t ∧ KeptBut [] [] none [s.sp] s t

/-- R283; the stack's direction and wrap are the spec's own choice (D7, D8). LEAVE sets SP to BP and pops
BP; no flag is written, no cell changes. The opcodes of R96 (D1) decode to these forms. -/
def Obligations.LeaveClosesAFrame : Prop :=
  (∀ b1 b2 b3 : Byte, decode 0x14 b1 b2 b3 = .leave) ∧
  ∀ s : State, ∃ t, exec .leave s = .next t ∧ t.sp.toNat = (s.bp.toNat + 255) % 256 ∧
    t.bp = s.stackRead (s.bp - 1) ∧ NextAfter .leave s t ∧ KeptBut [] [] none [] s t

/-- R284 (derived from R268 and R269): CALL then RET continues at the instruction after the CALL's three
bytes, with the SP of before. -/
def Obligations.CallThenRetReturnsAfterTheCall : Prop :=
  ∀ (x : Word) (s : State), ∃ t u, exec (.call x) s = .next t ∧ exec .ret t = .next u ∧
    u.pc.toNat = (s.pc.toNat + 3) % 65536 ∧ u.sp = s.sp

/-- R284 (derived from R282 and R283): ENTER n then LEAVE restores SP and BP, for every n, SP and BP. -/
def Obligations.EnterThenLeaveRestoresSPAndBP : Prop :=
  ∀ (n : Byte) (s : State), ∃ t u, exec (.enter n) s = .next t ∧ exec .leave t = .next u ∧
    u.sp = s.sp ∧ u.bp = s.bp ∧ u.f = s.f

/-- R284 (derived from R280 and R281, with D7, D8 and D26): any PUSH then any POP: SP is as before, and the
register the POP names, FLAGS and all its eight bits among them, holds the byte the PUSH names. -/
def Obligations.PopGivesBackWhatPushPushed : Prop :=
  ∀ (o : PushSrc) (o' : PopDst) (s : State), ∃ t u, exec (.push o) s = .next t ∧ exec (.pop o') t = .next u ∧
    PopHolds u o' (s.pushValue o) ∧ u.sp = s.sp

/-! ## System (file 48) -/

/-- R300 and R307. NOOP and every unassigned opcode advance PC by one and change nothing else. -/
def Obligations.NoopAndUnassignedOpcodesOnlyAdvance : Prop :=
  (∀ b1 b2 b3 : Byte, decode 0x01 b1 b2 b3 = .noop) ∧
  (∀ op ∈ unassignedOpcodes, ∀ b1 b2 b3 : Byte, decode op b1 b2 b3 = .unassigned op) ∧
  (∀ s : State, exec .noop s = .next { s with pc := s.pc + 1 }) ∧
  (∀ op ∈ unassignedOpcodes, ∀ s : State, exec (.unassigned op) s = .next { s with pc := s.pc + 1 })

/-- R145. HALT changes nothing, PC among it; the step at a HALT opcode returns 0x00. With
EXTERNAL_WRITE_REGION empty no external write precedes the step. -/
def Obligations.HaltChangesNothing : Prop :=
  (∀ s : State, exec .halt s = .next s) ∧
  ∀ s : State, s.params.externalWriteRegion = [] → s.memRead s.pc = 0 → s.hostStep = (.next s, 0)

/-- R302 to R305. EI, DI, ET and DT write one flag each. -/
def Obligations.FlagInstructionsWriteOneFlag : Prop :=
  (∀ b1 b2 b3 : Byte, decode 0x02 b1 b2 b3 = .ei ∧ decode 0x03 b1 b2 b3 = .di ∧
    decode 0x04 b1 b2 b3 = .et ∧ decode 0x05 b1 b2 b3 = .dt) ∧
  ∀ s : State, ∀ e ∈ [(Instr.ei, Flag.i, true), (Instr.di, Flag.i, false), (Instr.et, Flag.t, true),
      (Instr.dt, Flag.t, false)],
    ∃ t, exec e.1 s = .next t ∧ t.flag e.2.1 = e.2.2 ∧ NextAfter e.1 s t ∧ PointersKept s t ∧
      KeptBut [e.2.1] [] none [] s t

/-- R306 and R350; the values and the parameter RESET_CLEARS_MEMORY are the spec's own choice (D28, D29).
RESET, and the host's RESET with it: every register, flag and stack cell 0, PC at PROGRAM_START, MEM kept
or cleared by the parameter. The opcodes of R96 (D1) decode to these forms. -/
def Obligations.ResetReinitializesForEveryParameter : Prop :=
  (∀ b1 b2 b3 : Byte, decode 0x06 b1 b2 b3 = .reset) ∧
  ∀ s : State, ∃ t, exec .reset s = .next t ∧ t = s.hostReset ∧ t.pc = s.params.programStart ∧
    (∀ r, t.reg r = 0) ∧ (∀ fl, t.flag fl = false) ∧ t.sp = 0 ∧ t.bp = 0 ∧ (∀ i, t.stackRead i = 0) ∧
    (∀ x, t.memRead x = if s.params.resetClearsMemory then 0 else s.memRead x) ∧ OwnKept s t

/-! ## The state after reset (R50), the host's transactions (file 40) -/

/-- R50, whose values are the spec's own choice (D28, D30): the state after INIT, for every value of the
parameters, and the model's reset state (log entries 1 and 5), which has the defaults of R5 (D21, D24, D29,
D30, D41). -/
def Obligations.InitialStateHasTheValuesOfTheResetTable : Prop :=
  (∀ s : State, s.hostInit.pc = s.params.programStart ∧ (∀ r, s.hostInit.reg r = 0) ∧
    (∀ fl, s.hostInit.flag fl = false) ∧ s.hostInit.sp = 0 ∧ s.hostInit.bp = 0 ∧
    (∀ i, s.hostInit.stackRead i = 0) ∧ (∀ x, s.hostInit.memRead x = 0) ∧ OwnKept s s.hostInit) ∧
  State.reset.hostInit = State.reset ∧ State.reset.pc = 0x0100 ∧
  State.reset.params.programStart = 0x0100 ∧ State.reset.params.jextNotTakenAdvance.bytes = 4 ∧
  State.reset.params.divwByZeroResult = 0xFFFF ∧ State.reset.params.resetClearsMemory = false ∧
  State.reset.params.externalWriteRegion = [] ∧ State.reset.params.displayRegion = []

/-- R151; the refusal of a longer sequence is the spec's own choice (D37). LOAD copies the bytes to MEM from
address 0 and changes nothing else. -/
def Obligations.HostLoadCopiesBytesFromAddressZero : Prop :=
  ∀ (bytes : List Byte) (s : State),
    (bytes.length ≤ 65536 → ∃ t, s.hostLoad bytes = .next t ∧
      (∀ x : Word, t.memRead x = (bytes[x.toNat]?).getD (s.memRead x)) ∧ t.pc = s.pc ∧
      PointersKept s t ∧ FlagsKeptBut [] s t ∧ RegsKeptBut [] s t ∧ StackKeptBut [] s t ∧ OwnKept s t) ∧
    (65536 < bytes.length → s.hostLoad bytes = .refused .loadTooLong)

/-- R147 and R146. A step is total: for every state one next state, and the opcode byte it fetched. That the
byte is fetched after the pending external writes is the spec's own choice (R324, D35), and that they are
draws before every step is the model's (log entries 2 and 8). -/
def Obligations.EveryStepHasANextState : Prop :=
  ∀ s : State, ∃ t op, s.hostStep = (.next t, op) ∧ step s = .next t ∧
    op = s.drawExternal.memRead s.pc

/-- R148, whose definition of the end of a run is the spec's own choice (D38): where the external agent may
not write the byte at PC, a halted state is final, for any number of steps: the engine stays halted, every
step returns 0x00, and nothing changes but the bytes of EXTERNAL_WRITE_REGION, which are draws before every
step (R72 and D35; log entry 2) and are counted (log entry 2). With the region empty nothing changes at all. -/
def Obligations.HaltedStateIsFinal : Prop :=
  ∀ (n : Nat) (s : State), s.halted = true → s.pc ∉ s.params.externalWriteRegion →
    ∃ t, steps n s = .next t ∧ t.halted = true ∧ t.hostStep.2 = 0 ∧
      { t with mem := s.mem, draws := s.draws } = s ∧
      (∀ x, x ∉ s.params.externalWriteRegion → t.memRead x = s.memRead x) ∧
      (s.params.externalWriteRegion = [] → t = s)

/-- R153 and R155; when the pause comes is the spec's own choice (D33), as is that the external writes come
before a step (R324, D35). The bound `n`, that reaching it is the host stopping the run, and that a HALT ends
a run even with F.T set, are the model's (log entry 8; the draws, log entry 2). RUN repeats steps: it ends at
the first that returns 0x00, else it pauses after the first that leaves F.T set, else it is stopped after `n`
steps; before it comes to rest it goes on at every state. -/
def Obligations.RunIsRepeatedStep : Prop :=
  ∀ (n : Nat) (s : State),
    match s.hostRun n with
    | .stopped t => steps n s = .next t ∧ RunGoesOnFor n s
    | .paused t => ∃ k u, k < n ∧ RunGoesOnFor k s ∧ steps k s = .next u ∧ u.nextOpcode ≠ 0 ∧
        step u = .next t ∧ t.flag .t = true
    | .halted t => ∃ k u, k < n ∧ RunGoesOnFor k s ∧ steps k s = .next u ∧ u.nextOpcode = 0 ∧
        step u = .next t ∧ t.halted = true
    | .stuck => False

/-! ## The step -/

/-- R140, R141, R142. When the bytes at PC, after the pending external writes, are those of a well-formed
instruction, the step is that instruction's meaning on the state after those writes; with
EXTERNAL_WRITE_REGION empty there are none. That the writes come before the step is the spec's own choice
(R324, D35), and that they are draws before every step is the model's (log entry 2). -/
def Obligations.StepRunsTheDecodedInstruction : Prop :=
  ∀ (i : Instr) (s : State), i.wf = true →
    (∀ k, k < (encode i).length →
      (encode i)[k]? = some (s.drawExternal.memRead (s.pc + BitVec.ofNat 16 k))) →
    step s = exec i s.drawExternal ∧ (s.params.externalWriteRegion = [] → s.drawExternal = s)

/-- R72, whose reading as a draw is the spec's own choice (D35), and the order and the count of the draws the
model's (log entry 2): before a step each address of EXTERNAL_WRITE_REGION takes its free value, whatever
that is; nothing else of the machine changes. -/
def Obligations.ExternalWritesTouchOnlyTheirRegion : Prop :=
  ∀ s : State, s.params.externalWriteRegion.Nodup →
    (∀ (k : Nat) (x : Word), s.params.externalWriteRegion[k]? = some x →
      s.drawExternal.memRead x = Config.externalByte (s.draws + k) x) ∧
    (∀ x : Word, x ∉ s.params.externalWriteRegion → s.drawExternal.memRead x = s.memRead x) ∧
    { s.drawExternal with mem := s.mem, draws := s.draws } = s

/-- The canonical form of MEM and STACK (the model's representation of R46 and R47, log entry 14) is kept
by every step, from every state that has it. -/
def Obligations.StepKeepsTheCanonicalForm : Prop :=
  ∀ s t : State, s.Inv → step s = .next t → t.Inv

/-- The canonical form holds after INIT, with any parameters, and at the model's reset state. -/
def Obligations.ResetHasTheCanonicalForm : Prop :=
  State.reset.Inv ∧ ∀ s : State, s.hostInit.Inv

/-- The parameters of R5 never change, and the count of external draws grows by the size of the region:
the model's own fields (log entries 1 and 2). -/
def Obligations.StepKeepsTheParameters : Prop :=
  ∀ s t : State, step s = .next t →
    t.params = s.params ∧ t.draws = s.draws + s.params.externalWriteRegion.length

/-! ## Rules over every instruction -/

/-- R36 and R38, whose bit positions are the spec's own choice (D4, D5, D11): an instruction changes no flag
but those its row of the table lets it write. -/
def Obligations.OnlyListedInstructionsWriteAFlag : Prop :=
  ∀ (i : Instr) (fl : Flag) (s : State), mayWrite i fl = false →
    ∃ t, exec i s = .next t ∧ t.flag fl = s.flag fl

/-- R62, R64, R65, R70, with R95, R268, R280 and R282 for the places (derived). Every instruction but RESET
stores to at most one byte of MEM, the one its destination names, and to the stack cells that PUSH, ENTER,
CALL or its frame operand name; a store to MEM never reaches STACK and a push never reaches MEM. Which cells
these are, SP and SP + 1 upward with wrap and BP + d - 1, and the page of (L), are the spec's own choice (D7,
D8, D9, D10). -/
def Obligations.InstructionsStoreOnlyWhereTheyName : Prop :=
  ∀ (i : Instr) (s : State), i ≠ .reset →
    ∃ t, exec i s = .next t ∧ MemKeptBut (memStore s i) s t ∧ StackKeptBut (stackStores s i) s t

/-- R40 to R43 (the inertness is the spec's own choice, D32, D4, D5): the flags O, AC, I, T and bit 7 do not
change what an instruction computes. Two states that differ in one of them step to states that differ at
most in it. PUSH FLAGS, which reads all of F, is left out, and JEXT for the flags it tests. -/
def Obligations.InertFlagsDoNotChangeWhatIsComputed : Prop :=
  ∀ (i : Instr) (fl : Flag) (v : Bool) (s : State),
    fl ∈ [Flag.o, .ac, .i, .t, .r7] → i ≠ .push .flags →
    (∀ mode mask x, i = .jext mode mask x → fl = .t ∨ fl = .r7) →
    ∃ t u, exec i s = .next t ∧ exec i (s.setFlag fl v) = .next u ∧
      u.setFlag fl false = t.setFlag fl false

/-- R95, whose frame index and page are the spec's own choice (D9, D10): the value of every operand form. -/
def Obligations.OperandFormsReadTheirLocations : Prop :=
  ∀ (s : State),
    (∀ v, s.src8 (.imm v) = v) ∧ (∀ x, s.src8 (.abs x) = s.mem.read x.toNat) ∧
    s.src8 .hlInd = s.mem.read (s.h.toNat * 256 + s.l.toNat) ∧ s.src8 .lInd = s.mem.read s.l.toNat ∧
    (∀ d, s.src8 (.frame d) = s.stack.read ((s.bp.toNat + d.toNat + 255) % 256)) ∧
    (s.src8 (.reg .a) = s.a ∧ s.src8 (.reg .b) = s.b ∧ s.src8 (.reg .c) = s.c ∧ s.src8 (.reg .h) = s.h ∧
      s.src8 (.reg .l) = s.l) ∧
    (s.pushValue .bp = s.bp ∧ s.pushValue .flags = s.f ∧ (∀ v, s.pushValue (.imm v) = v) ∧
      ∀ r, s.pushValue (.reg r) = s.reg r) ∧
    (∀ o : Loc8, ∀ o' : Src8, toLoc o' = some o → s.readLoc o = s.src8 o')

/-! ## Encoding (file 30) -/

/-- R91 to R96: decoding an encoded well-formed instruction gives it back, whatever bytes follow. -/
def Obligations.DecodeOfEncodeIsTheInstruction : Prop :=
  ∀ (i : Instr) (rest : List Byte), i.wf = true → decodeBytes (encode i ++ rest) = .ok (i, rest)

/-- R97 and R99 (derived): every byte is an opcode. What is decoded is well-formed, as long as R97 says, and
encodes to the bytes it was decoded from. -/
def Obligations.EncodeOfDecodeIsTheBytes : Prop :=
  ∀ op b1 b2 b3 : Byte,
    (decode op b1 b2 b3).wf = true ∧ (decode op b1 b2 b3).length = opLength op ∧
      encode (decode op b1 b2 b3) = [op, b1, b2, b3].take (opLength op)

/-- Words written out from the opcode map (R96), one of each format and family, decode to their
instructions. -/
def Obligations.WrittenOutWordsDecode : Prop :=
  decodeBytes [0x2D, 0x05] = .ok (.load (.imm 0x05), []) ∧
  decodeBytes [0x30, 0x02, 0x0E] = .ok (.store (.abs 0x020E), []) ∧
  decodeBytes [0xD0, 0xFD] = .ok (.add (.frame 0xFD), []) ∧
  decodeBytes [0xB5] = .ok (.incHL, []) ∧
  decodeBytes [0xF7, 0x07] = .ok (.divw (.imm 0x07), []) ∧
  decodeBytes [0x0F, 0x43, 0x02, 0x00] = .ok (.jext .allSet 0x03 0x0200, []) ∧
  decodeBytes [0x1E] = .ok (.push .flags, []) ∧
  decodeBytes [0xA9] = .ok (.ror (.reg .b), []) ∧
  decodeBytes [0xFF, 0x45] = .ok (.unassigned 0xFF, [0x45])

/-! ## The assembler (file 30, section 4) -/

/-- R125, R126, R357 and R358 (derived; the frame byte is D9, the page of (L) D10, that L wraps without a
carry into H D27): what the code of an operand with an offset does, whichever instruction takes the operand as
a source or a destination. `(HL+k)` moves HL by k for good, and takes a label's address with it (D40); the
(HL) form's value is then the byte at HL + k, and its location that byte. `(L+k)` moves L by k modulo 256 for
good, H kept, and the (L) form's value and location are the byte at that address. A zero offset on HL or L
emits nothing. The frame form of `{BP+k}` has as its value and location the cell of STACK at BP + k. LOAD is
run after each. -/
def Obligations.OffsetOperandsReadTheOffsetAddress : Prop :=
  (∀ (direct : Bool) (k : Word) (u : Option LabelUse), k ≠ 0 ∨ u ≠ none →
    expand direct (.mem .hl k u) = some ([⟨.addhlI16 k, u⟩], .hlInd, none)) ∧
  (∀ (k : Word) (s : State), ∃ t, exec (.addhlI16 k) s = .next t ∧ t.hl = s.hl + k ∧
    t.src8 .hlInd = s.memRead (s.hl + k) ∧ t.readLoc .hlInd = s.memRead (s.hl + k) ∧
    t.locMemAddr .hlInd = some (s.hl + k) ∧
    ∃ u, exec (.load .hlInd) t = .next u ∧ u.a = s.memRead (s.hl + k) ∧ u.hl = s.hl + k) ∧
  (∀ (direct : Bool) (k : Word), k ≠ 0 →
    expand direct (.mem .l k none) = some ([⟨.addlI8 (loByte k), none⟩], .lInd, none)) ∧
  (∀ (k : Word) (s : State), ∃ t, exec (.addlI8 (loByte k)) s = .next t ∧
    t.l.toNat = (s.l.toNat + k.toNat) % 256 ∧ t.h = s.h ∧
    t.src8 .lInd = s.mem.read ((s.l.toNat + k.toNat) % 256) ∧
    t.readLoc .lInd = s.mem.read ((s.l.toNat + k.toNat) % 256) ∧
    (∃ x, t.locMemAddr .lInd = some x ∧ x.toNat = (s.l.toNat + k.toNat) % 256) ∧
    ∃ u, exec (.load .lInd) t = .next u ∧ u.a = s.mem.read ((s.l.toNat + k.toNat) % 256) ∧
      u.l.toNat = (s.l.toNat + k.toNat) % 256 ∧ u.h = s.h) ∧
  (∀ direct : Bool, expand direct (.mem .hl 0 none) = some ([], .hlInd, none) ∧
    expand direct (.mem .l 0 none) = some ([], .lInd, none)) ∧
  (∀ (direct : Bool) (k : Word) (s : State), ∃ d : Byte,
    expand direct (.frame k) = some ([], .frame d, none) ∧
    s.src8 (.frame d) = s.stack.read ((s.bp.toNat + k.toNat) % 256) ∧
    s.readLoc (.frame d) = s.stack.read ((s.bp.toNat + k.toNat) % 256) ∧
    (∃ i, s.locStackIndex (.frame d) = some i ∧ i.toNat = (s.bp.toNat + k.toNat) % 256) ∧
    ∃ t, exec (.load (.frame d)) s = .next t ∧ t.a = s.stack.read ((s.bp.toNat + k.toNat) % 256))

/-- R125 and R359 (derived): the code of a line with an absolute operand `(k)`, or with an indexed label, whose
address goes with k. LOAD, STORE and XCH emit their (a16) form, which reads and writes the byte at k and
leaves H and L alone. ADD to CMP, SHL to ROR, MIN, MAX, INC, DEC, NEG and NOT emit LDHL_I16 k and then their
(HL) form: after the LDHL_I16, HL is k for good, the (HL) form's value is the byte at k and its location is
that byte. -/
def Obligations.AbsoluteOperandsReadTheirAddress : Prop :=
  (∀ e ∈ directMnems, ∀ (k : Word) (u : Option LabelUse) (col : Nat),
    Emits (genOne e.1 (.mem .absolute k u) col) [(e.2 (.abs k), u)]) ∧
  (∀ e ∈ throughHLMnems, ∀ (k : Word) (u : Option LabelUse) (col : Nat),
    Emits (genOne e.1 (.mem .absolute k u) col) [(.ldhlI16 k, u), (e.2 .hlInd, none)]) ∧
  (∀ (m : Mnem) (mk : Src8 → Instr) (k : Word) (u : Option LabelUse) (col : Nat), m.srcForm = some mk →
    Emits (genOne m (.mem .absolute k u) col) [(.ldhlI16 k, u), (mk .hlInd, none)]) ∧
  (∀ (m : Mnem) (mk : Loc8 → Instr) (onHL : Instr) (k : Word) (u : Option LabelUse) (col : Nat),
    m.unaryForm = some (mk, onHL) →
    Emits (genOne m (.mem .absolute k u) col) [(.ldhlI16 k, u), (mk .hlInd, none)]) ∧
  (∀ (k : Word) (s : State),
    (∃ t, exec (.load (.abs k)) s = .next t ∧ t.a = s.memRead k ∧ t.hl = s.hl) ∧
    (∃ t, exec (.store (.abs k)) s = .next t ∧ t.memRead k = s.a ∧ t.hl = s.hl ∧ MemKeptBut (some k) s t) ∧
    (∃ t, exec (.xch (.abs k)) s = .next t ∧ t.a = s.memRead k ∧ t.memRead k = s.a ∧ t.hl = s.hl ∧
      MemKeptBut (some k) s t)) ∧
  (∀ (k : Word) (s : State), ∃ t, exec (.ldhlI16 k) s = .next t ∧ t.hl = k ∧
    t.src8 .hlInd = s.memRead k ∧ t.readLoc .hlInd = s.memRead k ∧ t.locMemAddr .hlInd = some k) ∧
  (∀ (k : Word) (s : State), ∃ t u, exec (.ldhlI16 k) s = .next t ∧ exec (.add .hlInd) t = .next u ∧
    u.a = s.a + s.memRead k ∧ u.hl = k) ∧
  (∀ (k : Word) (s : State), ∃ t u, exec (.ldhlI16 k) s = .next t ∧ exec (.inc .hlInd) t = .next u ∧
    u.memRead k = s.memRead k + 1 ∧ u.hl = k ∧ MemKeptBut (some k) s u)

/-- R125 and R126 (derived; that a label with an HL base always emits ADDHL_I16 is D40, that STORE has no frame
form D13, the frame byte D9): the code of a line with an HL, L or BP base, for every mnemonic that takes a
memory operand. STORE with a BP base is refused (D13); that the diagnostic it draws is R132's
invalidOperandType, at the operand, is the model's choice (log entry 16), and so is that an offset above 255
on L or BP, reduced modulo 256, draws no warning (log entry 18). -/
def Obligations.EveryMnemonicEmitsItsOffsetCode : Prop :=
  (∀ e ∈ directMnems ++ throughHLMnems, ∀ (k : Word) (u : Option LabelUse) (col : Nat),
    (k ≠ 0 ∨ u ≠ none → Emits (genOne e.1 (.mem .hl k u) col) [(.addhlI16 k, u), (e.2 .hlInd, none)]) ∧
    Emits (genOne e.1 (.mem .hl 0 none) col) [(e.2 .hlInd, none)] ∧
    (k ≠ 0 → Emits (genOne e.1 (.mem .l k none) col) [(.addlI8 (loByte k), none), (e.2 .lInd, none)]) ∧
    Emits (genOne e.1 (.mem .l 0 none) col) [(e.2 .lInd, none)] ∧
    (e.1 ≠ .store → Emits (genOne e.1 (.frame k) col) [(e.2 (.frame (loByte (k + 1))), none)])) ∧
  ∀ (k : Word) (col : Nat), genOne .store (.frame k) col = .error (.diag .invalidOperandType col)

/-- R130 (big-endian by D2): a patch adds the label's address to the two bytes at its site, high byte first,
modulo 65536, and changes no other byte of the code. -/
def Obligations.PatchAddsTheLabelAddressAtItsSite : Prop :=
  ∀ (code : List Byte) (offset : Nat) (v : Word), offset + 1 < code.length →
    siteBase (patchAt code offset v) offset = siteBase code offset + v ∧
    (patchAt code offset v).length = code.length ∧
    ∀ k, k ≠ offset → k ≠ offset + 1 → (patchAt code offset v)[k]? = code[k]?

/-- R131. Whatever the source text, an executable is PROGRAM_START zero bytes and then the code, byte for byte,
and the code ends with the HALT byte that pass 1 appends: no patch of pass 2 touches either. -/
def Obligations.ExecutableIsZeroPrefixThenCodeEndingInHalt : Prop :=
  ∀ (p : Params) (src : List Char) (a : Assembled), assemble p src = .ok a →
    (a.image p).length = p.programStart.toNat + a.code.length ∧
    (∀ k, k < p.programStart.toNat → (a.image p)[k]? = some 0) ∧
    (∀ k, (a.image p)[p.programStart.toNat + k]? = a.code[k]?) ∧ a.code.getLast? = some 0

/-- R353 (derived from R131, R150 and R151): after INIT and LOAD of an executable that fits, the bytes at PC
are the executable's code. -/
def Obligations.LoadedExecutableStartsAtProgramStart : Prop :=
  ∀ (s : State) (a : Assembled), s.params.programStart.toNat + a.code.length ≤ 65536 →
    ∃ t, s.hostInit.hostLoad (a.image s.params) = .next t ∧ t.pc = s.params.programStart ∧
      ∀ k, k < a.code.length → a.code[k]? = some (t.fetch8 k)
end

