-- ==== Sys2Proof/Laws/State.lean ====
section
/-! SUPPORT. One lemma per field per state update, so that no proof unfolds a record update. -/

namespace Sys2Proof.Machine

variable (s : State)

@[simp] theorem State.memWrite_pc (x : Word) (v : Byte) : (s.memWrite x v).pc = s.pc := rfl
@[simp] theorem State.memWrite_a (x : Word) (v : Byte) : (s.memWrite x v).a = s.a := rfl
@[simp] theorem State.memWrite_b (x : Word) (v : Byte) : (s.memWrite x v).b = s.b := rfl
@[simp] theorem State.memWrite_c (x : Word) (v : Byte) : (s.memWrite x v).c = s.c := rfl
@[simp] theorem State.memWrite_h (x : Word) (v : Byte) : (s.memWrite x v).h = s.h := rfl
@[simp] theorem State.memWrite_l (x : Word) (v : Byte) : (s.memWrite x v).l = s.l := rfl
@[simp] theorem State.memWrite_f (x : Word) (v : Byte) : (s.memWrite x v).f = s.f := rfl
@[simp] theorem State.memWrite_sp (x : Word) (v : Byte) : (s.memWrite x v).sp = s.sp := rfl
@[simp] theorem State.memWrite_bp (x : Word) (v : Byte) : (s.memWrite x v).bp = s.bp := rfl
@[simp] theorem State.memWrite_stack (x : Word) (v : Byte) : (s.memWrite x v).stack = s.stack := rfl
@[simp] theorem State.memWrite_mem (x : Word) (v : Byte) : (s.memWrite x v).mem = s.mem.write x.toNat v := rfl
@[simp] theorem State.memWrite_params (x : Word) (v : Byte) : (s.memWrite x v).params = s.params := rfl
@[simp] theorem State.memWrite_draws (x : Word) (v : Byte) : (s.memWrite x v).draws = s.draws := rfl

@[simp] theorem State.stackWrite_pc (i v : Byte) : (s.stackWrite i v).pc = s.pc := rfl
@[simp] theorem State.stackWrite_a (i v : Byte) : (s.stackWrite i v).a = s.a := rfl
@[simp] theorem State.stackWrite_b (i v : Byte) : (s.stackWrite i v).b = s.b := rfl
@[simp] theorem State.stackWrite_c (i v : Byte) : (s.stackWrite i v).c = s.c := rfl
@[simp] theorem State.stackWrite_h (i v : Byte) : (s.stackWrite i v).h = s.h := rfl
@[simp] theorem State.stackWrite_l (i v : Byte) : (s.stackWrite i v).l = s.l := rfl
@[simp] theorem State.stackWrite_f (i v : Byte) : (s.stackWrite i v).f = s.f := rfl
@[simp] theorem State.stackWrite_sp (i v : Byte) : (s.stackWrite i v).sp = s.sp := rfl
@[simp] theorem State.stackWrite_bp (i v : Byte) : (s.stackWrite i v).bp = s.bp := rfl
@[simp] theorem State.stackWrite_stack (i v : Byte) : (s.stackWrite i v).stack = s.stack.write i.toNat v := rfl
@[simp] theorem State.stackWrite_mem (i v : Byte) : (s.stackWrite i v).mem = s.mem := rfl
@[simp] theorem State.stackWrite_params (i v : Byte) : (s.stackWrite i v).params = s.params := rfl
@[simp] theorem State.stackWrite_draws (i v : Byte) : (s.stackWrite i v).draws = s.draws := rfl

@[simp] theorem State.setA_pc (v : Byte) : (s.setA v).pc = s.pc := rfl
@[simp] theorem State.setA_a (v : Byte) : (s.setA v).a = v := rfl
@[simp] theorem State.setA_b (v : Byte) : (s.setA v).b = s.b := rfl
@[simp] theorem State.setA_c (v : Byte) : (s.setA v).c = s.c := rfl
@[simp] theorem State.setA_h (v : Byte) : (s.setA v).h = s.h := rfl
@[simp] theorem State.setA_l (v : Byte) : (s.setA v).l = s.l := rfl
@[simp] theorem State.setA_f (v : Byte) : (s.setA v).f = s.f := rfl
@[simp] theorem State.setA_sp (v : Byte) : (s.setA v).sp = s.sp := rfl
@[simp] theorem State.setA_bp (v : Byte) : (s.setA v).bp = s.bp := rfl
@[simp] theorem State.setA_stack (v : Byte) : (s.setA v).stack = s.stack := rfl
@[simp] theorem State.setA_mem (v : Byte) : (s.setA v).mem = s.mem := rfl
@[simp] theorem State.setA_params (v : Byte) : (s.setA v).params = s.params := rfl
@[simp] theorem State.setA_draws (v : Byte) : (s.setA v).draws = s.draws := rfl

@[simp] theorem State.setHL_pc (v : Word) : (s.setHL v).pc = s.pc := rfl
@[simp] theorem State.setHL_a (v : Word) : (s.setHL v).a = s.a := rfl
@[simp] theorem State.setHL_b (v : Word) : (s.setHL v).b = s.b := rfl
@[simp] theorem State.setHL_c (v : Word) : (s.setHL v).c = s.c := rfl
@[simp] theorem State.setHL_h (v : Word) : (s.setHL v).h = hiByte v := rfl
@[simp] theorem State.setHL_l (v : Word) : (s.setHL v).l = loByte v := rfl
@[simp] theorem State.setHL_f (v : Word) : (s.setHL v).f = s.f := rfl
@[simp] theorem State.setHL_sp (v : Word) : (s.setHL v).sp = s.sp := rfl
@[simp] theorem State.setHL_bp (v : Word) : (s.setHL v).bp = s.bp := rfl
@[simp] theorem State.setHL_stack (v : Word) : (s.setHL v).stack = s.stack := rfl
@[simp] theorem State.setHL_mem (v : Word) : (s.setHL v).mem = s.mem := rfl
@[simp] theorem State.setHL_params (v : Word) : (s.setHL v).params = s.params := rfl
@[simp] theorem State.setHL_draws (v : Word) : (s.setHL v).draws = s.draws := rfl

@[simp] theorem State.setPC_pc (x : Word) : (s.setPC x).pc = x := rfl
@[simp] theorem State.setPC_a (x : Word) : (s.setPC x).a = s.a := rfl
@[simp] theorem State.setPC_b (x : Word) : (s.setPC x).b = s.b := rfl
@[simp] theorem State.setPC_c (x : Word) : (s.setPC x).c = s.c := rfl
@[simp] theorem State.setPC_h (x : Word) : (s.setPC x).h = s.h := rfl
@[simp] theorem State.setPC_l (x : Word) : (s.setPC x).l = s.l := rfl
@[simp] theorem State.setPC_f (x : Word) : (s.setPC x).f = s.f := rfl
@[simp] theorem State.setPC_sp (x : Word) : (s.setPC x).sp = s.sp := rfl
@[simp] theorem State.setPC_bp (x : Word) : (s.setPC x).bp = s.bp := rfl
@[simp] theorem State.setPC_stack (x : Word) : (s.setPC x).stack = s.stack := rfl
@[simp] theorem State.setPC_mem (x : Word) : (s.setPC x).mem = s.mem := rfl
@[simp] theorem State.setPC_params (x : Word) : (s.setPC x).params = s.params := rfl
@[simp] theorem State.setPC_draws (x : Word) : (s.setPC x).draws = s.draws := rfl

@[simp] theorem State.advance_pc (n : Nat) : (s.advance n).pc = s.pcPlus n := rfl
@[simp] theorem State.advance_a (n : Nat) : (s.advance n).a = s.a := rfl
@[simp] theorem State.advance_b (n : Nat) : (s.advance n).b = s.b := rfl
@[simp] theorem State.advance_c (n : Nat) : (s.advance n).c = s.c := rfl
@[simp] theorem State.advance_h (n : Nat) : (s.advance n).h = s.h := rfl
@[simp] theorem State.advance_l (n : Nat) : (s.advance n).l = s.l := rfl
@[simp] theorem State.advance_f (n : Nat) : (s.advance n).f = s.f := rfl
@[simp] theorem State.advance_sp (n : Nat) : (s.advance n).sp = s.sp := rfl
@[simp] theorem State.advance_bp (n : Nat) : (s.advance n).bp = s.bp := rfl
@[simp] theorem State.advance_stack (n : Nat) : (s.advance n).stack = s.stack := rfl
@[simp] theorem State.advance_mem (n : Nat) : (s.advance n).mem = s.mem := rfl
@[simp] theorem State.advance_params (n : Nat) : (s.advance n).params = s.params := rfl
@[simp] theorem State.advance_draws (n : Nat) : (s.advance n).draws = s.draws := rfl

@[simp] theorem State.setFlag_pc (fl : Flag) (v : Bool) : (s.setFlag fl v).pc = s.pc := rfl
@[simp] theorem State.setFlag_a (fl : Flag) (v : Bool) : (s.setFlag fl v).a = s.a := rfl
@[simp] theorem State.setFlag_b (fl : Flag) (v : Bool) : (s.setFlag fl v).b = s.b := rfl
@[simp] theorem State.setFlag_c (fl : Flag) (v : Bool) : (s.setFlag fl v).c = s.c := rfl
@[simp] theorem State.setFlag_h (fl : Flag) (v : Bool) : (s.setFlag fl v).h = s.h := rfl
@[simp] theorem State.setFlag_l (fl : Flag) (v : Bool) : (s.setFlag fl v).l = s.l := rfl
@[simp] theorem State.setFlag_f (fl : Flag) (v : Bool) : (s.setFlag fl v).f = putFlag s.f fl v := rfl
@[simp] theorem State.setFlag_sp (fl : Flag) (v : Bool) : (s.setFlag fl v).sp = s.sp := rfl
@[simp] theorem State.setFlag_bp (fl : Flag) (v : Bool) : (s.setFlag fl v).bp = s.bp := rfl
@[simp] theorem State.setFlag_stack (fl : Flag) (v : Bool) : (s.setFlag fl v).stack = s.stack := rfl
@[simp] theorem State.setFlag_mem (fl : Flag) (v : Bool) : (s.setFlag fl v).mem = s.mem := rfl
@[simp] theorem State.setFlag_params (fl : Flag) (v : Bool) : (s.setFlag fl v).params = s.params := rfl
@[simp] theorem State.setFlag_draws (fl : Flag) (v : Bool) : (s.setFlag fl v).draws = s.draws := rfl

@[simp] theorem State.setZS8_pc (v : Byte) : (s.setZS8 v).pc = s.pc := rfl
@[simp] theorem State.setZS8_a (v : Byte) : (s.setZS8 v).a = s.a := rfl
@[simp] theorem State.setZS8_b (v : Byte) : (s.setZS8 v).b = s.b := rfl
@[simp] theorem State.setZS8_c (v : Byte) : (s.setZS8 v).c = s.c := rfl
@[simp] theorem State.setZS8_h (v : Byte) : (s.setZS8 v).h = s.h := rfl
@[simp] theorem State.setZS8_l (v : Byte) : (s.setZS8 v).l = s.l := rfl
@[simp] theorem State.setZS8_f (v : Byte) : (s.setZS8 v).f = putFlag (putFlag s.f .z (v == 0)) .s (v.getLsbD 7) := rfl
@[simp] theorem State.setZS8_sp (v : Byte) : (s.setZS8 v).sp = s.sp := rfl
@[simp] theorem State.setZS8_bp (v : Byte) : (s.setZS8 v).bp = s.bp := rfl
@[simp] theorem State.setZS8_stack (v : Byte) : (s.setZS8 v).stack = s.stack := rfl
@[simp] theorem State.setZS8_mem (v : Byte) : (s.setZS8 v).mem = s.mem := rfl
@[simp] theorem State.setZS8_params (v : Byte) : (s.setZS8 v).params = s.params := rfl
@[simp] theorem State.setZS8_draws (v : Byte) : (s.setZS8 v).draws = s.draws := rfl

@[simp] theorem State.setZS16_pc (v : Word) : (s.setZS16 v).pc = s.pc := rfl
@[simp] theorem State.setZS16_a (v : Word) : (s.setZS16 v).a = s.a := rfl
@[simp] theorem State.setZS16_b (v : Word) : (s.setZS16 v).b = s.b := rfl
@[simp] theorem State.setZS16_c (v : Word) : (s.setZS16 v).c = s.c := rfl
@[simp] theorem State.setZS16_h (v : Word) : (s.setZS16 v).h = s.h := rfl
@[simp] theorem State.setZS16_l (v : Word) : (s.setZS16 v).l = s.l := rfl
@[simp] theorem State.setZS16_f (v : Word) : (s.setZS16 v).f = putFlag (putFlag s.f .z (v == 0)) .s (v.getLsbD 15) := rfl
@[simp] theorem State.setZS16_sp (v : Word) : (s.setZS16 v).sp = s.sp := rfl
@[simp] theorem State.setZS16_bp (v : Word) : (s.setZS16 v).bp = s.bp := rfl
@[simp] theorem State.setZS16_stack (v : Word) : (s.setZS16 v).stack = s.stack := rfl
@[simp] theorem State.setZS16_mem (v : Word) : (s.setZS16 v).mem = s.mem := rfl
@[simp] theorem State.setZS16_params (v : Word) : (s.setZS16 v).params = s.params := rfl
@[simp] theorem State.setZS16_draws (v : Word) : (s.setZS16 v).draws = s.draws := rfl

@[simp] theorem State.setZSH_pc : (s.setZSH).pc = s.pc := rfl
@[simp] theorem State.setZSH_a : (s.setZSH).a = s.a := rfl
@[simp] theorem State.setZSH_b : (s.setZSH).b = s.b := rfl
@[simp] theorem State.setZSH_c : (s.setZSH).c = s.c := rfl
@[simp] theorem State.setZSH_h : (s.setZSH).h = s.h := rfl
@[simp] theorem State.setZSH_l : (s.setZSH).l = s.l := rfl
@[simp] theorem State.setZSH_f : (s.setZSH).f = (s.setZS8 s.h).f := rfl
@[simp] theorem State.setZSH_sp : (s.setZSH).sp = s.sp := rfl
@[simp] theorem State.setZSH_bp : (s.setZSH).bp = s.bp := rfl
@[simp] theorem State.setZSH_stack : (s.setZSH).stack = s.stack := rfl
@[simp] theorem State.setZSH_mem : (s.setZSH).mem = s.mem := rfl
@[simp] theorem State.setZSH_params : (s.setZSH).params = s.params := rfl
@[simp] theorem State.setZSH_draws : (s.setZSH).draws = s.draws := rfl

@[simp] theorem State.push_pc (v : Byte) : (s.push v).pc = s.pc := rfl
@[simp] theorem State.push_a (v : Byte) : (s.push v).a = s.a := rfl
@[simp] theorem State.push_b (v : Byte) : (s.push v).b = s.b := rfl
@[simp] theorem State.push_c (v : Byte) : (s.push v).c = s.c := rfl
@[simp] theorem State.push_h (v : Byte) : (s.push v).h = s.h := rfl
@[simp] theorem State.push_l (v : Byte) : (s.push v).l = s.l := rfl
@[simp] theorem State.push_f (v : Byte) : (s.push v).f = s.f := rfl
@[simp] theorem State.push_sp (v : Byte) : (s.push v).sp = s.sp + 1 := rfl
@[simp] theorem State.push_bp (v : Byte) : (s.push v).bp = s.bp := rfl
@[simp] theorem State.push_stack (v : Byte) : (s.push v).stack = s.stack.write s.sp.toNat v := rfl
@[simp] theorem State.push_mem (v : Byte) : (s.push v).mem = s.mem := rfl
@[simp] theorem State.push_params (v : Byte) : (s.push v).params = s.params := rfl
@[simp] theorem State.push_draws (v : Byte) : (s.push v).draws = s.draws := rfl

@[simp] theorem State.setAZS_pc (v : Byte) : (s.setAZS v).pc = s.pc := rfl
@[simp] theorem State.setAZS_a (v : Byte) : (s.setAZS v).a = v := rfl
@[simp] theorem State.setAZS_b (v : Byte) : (s.setAZS v).b = s.b := rfl
@[simp] theorem State.setAZS_c (v : Byte) : (s.setAZS v).c = s.c := rfl
@[simp] theorem State.setAZS_h (v : Byte) : (s.setAZS v).h = s.h := rfl
@[simp] theorem State.setAZS_l (v : Byte) : (s.setAZS v).l = s.l := rfl
@[simp] theorem State.setAZS_f (v : Byte) : (s.setAZS v).f = (s.setZS8 v).f := rfl
@[simp] theorem State.setAZS_sp (v : Byte) : (s.setAZS v).sp = s.sp := rfl
@[simp] theorem State.setAZS_bp (v : Byte) : (s.setAZS v).bp = s.bp := rfl
@[simp] theorem State.setAZS_stack (v : Byte) : (s.setAZS v).stack = s.stack := rfl
@[simp] theorem State.setAZS_mem (v : Byte) : (s.setAZS v).mem = s.mem := rfl
@[simp] theorem State.setAZS_params (v : Byte) : (s.setAZS v).params = s.params := rfl
@[simp] theorem State.setAZS_draws (v : Byte) : (s.setAZS v).draws = s.draws := rfl

@[simp] theorem State.setHLZS_pc (v : Word) : (s.setHLZS v).pc = s.pc := rfl
@[simp] theorem State.setHLZS_a (v : Word) : (s.setHLZS v).a = s.a := rfl
@[simp] theorem State.setHLZS_b (v : Word) : (s.setHLZS v).b = s.b := rfl
@[simp] theorem State.setHLZS_c (v : Word) : (s.setHLZS v).c = s.c := rfl
@[simp] theorem State.setHLZS_h (v : Word) : (s.setHLZS v).h = hiByte v := rfl
@[simp] theorem State.setHLZS_l (v : Word) : (s.setHLZS v).l = loByte v := rfl
@[simp] theorem State.setHLZS_f (v : Word) : (s.setHLZS v).f = (s.setZS16 v).f := rfl
@[simp] theorem State.setHLZS_sp (v : Word) : (s.setHLZS v).sp = s.sp := rfl
@[simp] theorem State.setHLZS_bp (v : Word) : (s.setHLZS v).bp = s.bp := rfl
@[simp] theorem State.setHLZS_stack (v : Word) : (s.setHLZS v).stack = s.stack := rfl
@[simp] theorem State.setHLZS_mem (v : Word) : (s.setHLZS v).mem = s.mem := rfl
@[simp] theorem State.setHLZS_params (v : Word) : (s.setHLZS v).params = s.params := rfl
@[simp] theorem State.setHLZS_draws (v : Word) : (s.setHLZS v).draws = s.draws := rfl

@[simp] theorem State.setHLZSH_pc (v : Word) : (s.setHLZSH v).pc = s.pc := rfl
@[simp] theorem State.setHLZSH_a (v : Word) : (s.setHLZSH v).a = s.a := rfl
@[simp] theorem State.setHLZSH_b (v : Word) : (s.setHLZSH v).b = s.b := rfl
@[simp] theorem State.setHLZSH_c (v : Word) : (s.setHLZSH v).c = s.c := rfl
@[simp] theorem State.setHLZSH_h (v : Word) : (s.setHLZSH v).h = hiByte v := rfl
@[simp] theorem State.setHLZSH_l (v : Word) : (s.setHLZSH v).l = loByte v := rfl
@[simp] theorem State.setHLZSH_f (v : Word) : (s.setHLZSH v).f = (s.setZS8 (hiByte v)).f := rfl
@[simp] theorem State.setHLZSH_sp (v : Word) : (s.setHLZSH v).sp = s.sp := rfl
@[simp] theorem State.setHLZSH_bp (v : Word) : (s.setHLZSH v).bp = s.bp := rfl
@[simp] theorem State.setHLZSH_stack (v : Word) : (s.setHLZSH v).stack = s.stack := rfl
@[simp] theorem State.setHLZSH_mem (v : Word) : (s.setHLZSH v).mem = s.mem := rfl
@[simp] theorem State.setHLZSH_params (v : Word) : (s.setHLZSH v).params = s.params := rfl
@[simp] theorem State.setHLZSH_draws (v : Word) : (s.setHLZSH v).draws = s.draws := rfl

/-! Updates by cases: what no case touches. -/

@[simp] theorem State.setReg_pc (r : Reg8) (v : Byte) : (s.setReg r v).pc = s.pc := by cases r <;> rfl
@[simp] theorem State.setReg_f (r : Reg8) (v : Byte) : (s.setReg r v).f = s.f := by cases r <;> rfl
@[simp] theorem State.setReg_sp (r : Reg8) (v : Byte) : (s.setReg r v).sp = s.sp := by cases r <;> rfl
@[simp] theorem State.setReg_bp (r : Reg8) (v : Byte) : (s.setReg r v).bp = s.bp := by cases r <;> rfl
@[simp] theorem State.setReg_stack (r : Reg8) (v : Byte) : (s.setReg r v).stack = s.stack := by cases r <;> rfl
@[simp] theorem State.setReg_mem (r : Reg8) (v : Byte) : (s.setReg r v).mem = s.mem := by cases r <;> rfl
@[simp] theorem State.setReg_params (r : Reg8) (v : Byte) : (s.setReg r v).params = s.params := by cases r <;> rfl
@[simp] theorem State.setReg_draws (r : Reg8) (v : Byte) : (s.setReg r v).draws = s.draws := by cases r <;> rfl

@[simp] theorem State.writeLoc_pc (o : Loc8) (v : Byte) : (s.writeLoc o v).pc = s.pc := by
  cases o with
  | reg r => exact State.setReg_pc s r v
  | _ => rfl
@[simp] theorem State.writeLoc_f (o : Loc8) (v : Byte) : (s.writeLoc o v).f = s.f := by
  cases o with
  | reg r => exact State.setReg_f s r v
  | _ => rfl
@[simp] theorem State.writeLoc_sp (o : Loc8) (v : Byte) : (s.writeLoc o v).sp = s.sp := by
  cases o with
  | reg r => exact State.setReg_sp s r v
  | _ => rfl
@[simp] theorem State.writeLoc_bp (o : Loc8) (v : Byte) : (s.writeLoc o v).bp = s.bp := by
  cases o with
  | reg r => exact State.setReg_bp s r v
  | _ => rfl
@[simp] theorem State.writeLoc_params (o : Loc8) (v : Byte) : (s.writeLoc o v).params = s.params := by
  cases o with
  | reg r => exact State.setReg_params s r v
  | _ => rfl
@[simp] theorem State.writeLoc_draws (o : Loc8) (v : Byte) : (s.writeLoc o v).draws = s.draws := by
  cases o with
  | reg r => exact State.setReg_draws s r v
  | _ => rfl

@[simp] theorem State.pushFlags_pc (o : PushSrc) (v : Byte) : (s.pushFlags o v).pc = s.pc := by cases o <;> rfl
@[simp] theorem State.pushFlags_a (o : PushSrc) (v : Byte) : (s.pushFlags o v).a = s.a := by cases o <;> rfl
@[simp] theorem State.pushFlags_b (o : PushSrc) (v : Byte) : (s.pushFlags o v).b = s.b := by cases o <;> rfl
@[simp] theorem State.pushFlags_c (o : PushSrc) (v : Byte) : (s.pushFlags o v).c = s.c := by cases o <;> rfl
@[simp] theorem State.pushFlags_h (o : PushSrc) (v : Byte) : (s.pushFlags o v).h = s.h := by cases o <;> rfl
@[simp] theorem State.pushFlags_l (o : PushSrc) (v : Byte) : (s.pushFlags o v).l = s.l := by cases o <;> rfl
@[simp] theorem State.pushFlags_sp (o : PushSrc) (v : Byte) : (s.pushFlags o v).sp = s.sp := by cases o <;> rfl
@[simp] theorem State.pushFlags_bp (o : PushSrc) (v : Byte) : (s.pushFlags o v).bp = s.bp := by cases o <;> rfl
@[simp] theorem State.pushFlags_stack (o : PushSrc) (v : Byte) : (s.pushFlags o v).stack = s.stack := by cases o <;> rfl
@[simp] theorem State.pushFlags_mem (o : PushSrc) (v : Byte) : (s.pushFlags o v).mem = s.mem := by cases o <;> rfl
@[simp] theorem State.pushFlags_params (o : PushSrc) (v : Byte) : (s.pushFlags o v).params = s.params := by cases o <;> rfl
@[simp] theorem State.pushFlags_draws (o : PushSrc) (v : Byte) : (s.pushFlags o v).draws = s.draws := by cases o <;> rfl

@[simp] theorem State.popInto_pc (o : PopDst) (v : Byte) : (s.popInto o v).pc = s.pc := by
  cases o with
  | reg r => exact State.setReg_pc s r v
  | _ => rfl
@[simp] theorem State.popInto_sp (o : PopDst) (v : Byte) : (s.popInto o v).sp = s.sp := by
  cases o with
  | reg r => exact State.setReg_sp s r v
  | _ => rfl
@[simp] theorem State.popInto_stack (o : PopDst) (v : Byte) : (s.popInto o v).stack = s.stack := by
  cases o with
  | reg r => exact State.setReg_stack s r v
  | _ => rfl
@[simp] theorem State.popInto_mem (o : PopDst) (v : Byte) : (s.popInto o v).mem = s.mem := by
  cases o with
  | reg r => exact State.setReg_mem s r v
  | _ => rfl
@[simp] theorem State.popInto_params (o : PopDst) (v : Byte) : (s.popInto o v).params = s.params := by
  cases o with
  | reg r => exact State.setReg_params s r v
  | _ => rfl
@[simp] theorem State.popInto_draws (o : PopDst) (v : Byte) : (s.popInto o v).draws = s.draws := by
  cases o with
  | reg r => exact State.setReg_draws s r v
  | _ => rfl

@[simp] theorem State.resetAll_pc : s.resetAll.pc = s.params.programStart := rfl
@[simp] theorem State.resetAll_a : s.resetAll.a = 0 := rfl
@[simp] theorem State.resetAll_b : s.resetAll.b = 0 := rfl
@[simp] theorem State.resetAll_c : s.resetAll.c = 0 := rfl
@[simp] theorem State.resetAll_h : s.resetAll.h = 0 := rfl
@[simp] theorem State.resetAll_l : s.resetAll.l = 0 := rfl
@[simp] theorem State.resetAll_f : s.resetAll.f = 0 := rfl
@[simp] theorem State.resetAll_sp : s.resetAll.sp = 0 := rfl
@[simp] theorem State.resetAll_bp : s.resetAll.bp = 0 := rfl
@[simp] theorem State.resetAll_stack : s.resetAll.stack = [] := rfl
@[simp] theorem State.resetAll_mem : s.resetAll.mem = if s.params.resetClearsMemory then [] else s.mem := rfl
@[simp] theorem State.resetAll_params : s.resetAll.params = s.params := rfl
@[simp] theorem State.resetAll_draws : s.resetAll.draws = s.draws := rfl

end Sys2Proof.Machine
end

