-- ==== Sys2Proof/Laws/Flags.lean ====
section
/-! SUPPORT. Reading a flag after writing one. -/

namespace Sys2Proof.Machine

/-- The bits of the flags are the eight bits of F. -/
theorem Flag.bit_lt (fl : Flag) : fl.bit < 8 := by cases fl <;> decide

theorem Flag.bit_inj {p q : Flag} (h : p.bit = q.bit) : p = q := by
  cases p <;> cases q <;> first | rfl | cases h

/-- Reading any bit of F after one is written. -/
theorem flagOf_putFlag (f : Byte) (p q : Flag) (v : Bool) :
    flagOf (putFlag f p v) q = if q = p then v else flagOf f q := by
  cases v <;> cases p <;> cases q <;> simp [flagOf, putFlag, Flag.bit]

/-- Reading any flag of the state after one is written. -/
@[simp] theorem State.flag_setFlag (s : State) (p q : Flag) (v : Bool) :
    (s.setFlag p v).flag q = if q = p then v else s.flag q := flagOf_putFlag s.f p q v

@[simp] theorem State.flag_setZS8 (s : State) (v : Byte) (q : Flag) :
    (s.setZS8 v).flag q = if q = .s then v.getLsbD 7 else if q = .z then v == 0 else s.flag q := by
  unfold State.setZS8
  rw [State.flag_setFlag, State.flag_setFlag]

@[simp] theorem State.flag_setZS16 (s : State) (v : Word) (q : Flag) :
    (s.setZS16 v).flag q = if q = .s then v.getLsbD 15 else if q = .z then v == 0 else s.flag q := by
  unfold State.setZS16
  rw [State.flag_setFlag, State.flag_setFlag]

/-- A flag depends on F alone. -/
theorem State.flag_congr {s t : State} (h : t.f = s.f) (q : Flag) : t.flag q = s.flag q := by
  unfold State.flag; rw [h]

/-- The eight flags determine the flags byte. -/
theorem flags_ext {f g : Byte} (h : ∀ q, flagOf f q = flagOf g q) : f = g := by
  have h0 := h .c
  have h1 := h .z
  have h2 := h .s
  have h3 := h .o
  have h4 := h .ac
  have h5 := h .i
  have h6 := h .t
  have h7 := h .r7
  simp only [flagOf, Flag.bit] at h0 h1 h2 h3 h4 h5 h6 h7
  refine BitVec.eq_of_getLsbD_eq fun i hi => ?_
  interval_cases i <;> assumption

end Sys2Proof.Machine
end

