-- ==== Sys2Proof/Laws/Memory.lean ====
section
/-! SUPPORT. The laws of the byte arrays: read after write, on every array, and the canonical form, which
every operation keeps. -/

namespace Sys2Proof.Machine

@[simp] theorem Memory.read_nil (a : Nat) : Memory.read [] a = 0 := rfl

theorem Memory.read_erase_same (m : Memory) (a : Nat) : (m.erase a).read a = 0 := by
  induction m with
  | nil => rfl
  | cons e r ih =>
    obtain ⟨k, v⟩ := e
    by_cases h : k = a <;> simp [Memory.erase, Memory.read, h, ih]

theorem Memory.read_erase_ne (m : Memory) {a b : Nat} (h : b ≠ a) : (m.erase a).read b = m.read b := by
  induction m with
  | nil => rfl
  | cons e r ih =>
    obtain ⟨k, v⟩ := e
    by_cases hk : k = a
    · subst hk; simp [Memory.erase, Memory.read, ih, Ne.symm h]
    · simp [Memory.erase, Memory.read, hk, ih]

/-- No cell of an array is at `a`. -/
def Memory.absent (m : Memory) (a : Nat) : Prop := ∀ e ∈ m, e.1 ≠ a

theorem Memory.absent_erase (m : Memory) (a : Nat) : (m.erase a).absent a := by
  induction m with
  | nil => intro e he; cases he
  | cons e r ih =>
    obtain ⟨k, v⟩ := e
    by_cases hk : k = a
    · simpa [Memory.erase, hk] using ih
    · intro x hx
      simp only [Memory.erase, hk, if_false, List.mem_cons] at hx
      rcases hx with rfl | hx
      · exact hk
      · exact ih x hx

theorem Memory.read_insert_same (m : Memory) (a : Nat) (v : Byte) (h : m.absent a) :
    (m.insert a v).read a = v := by
  induction m with
  | nil => simp [Memory.insert, Memory.read]
  | cons e r ih =>
    obtain ⟨k, w⟩ := e
    have hk : k ≠ a := h (k, w) List.mem_cons_self
    by_cases hlt : a < k
    · simp [Memory.insert, Memory.read, hlt]
    · simp [Memory.insert, Memory.read, hlt, hk, ih fun x hx => h x (List.mem_cons_of_mem _ hx)]

theorem Memory.read_insert_ne (m : Memory) {a b : Nat} (v : Byte) (h : b ≠ a) :
    (m.insert a v).read b = m.read b := by
  induction m with
  | nil => simp [Memory.insert, Memory.read, Ne.symm h]
  | cons e r ih =>
    obtain ⟨k, w⟩ := e
    by_cases hlt : a < k
    · simp [Memory.insert, Memory.read, hlt, Ne.symm h]
    · simp [Memory.insert, Memory.read, hlt, ih]

/-- A read after a write to the same address gives the value written. -/
@[simp] theorem Memory.read_write_same (m : Memory) (a : Nat) (v : Byte) : (m.write a v).read a = v := by
  unfold Memory.write
  split
  · next h => simp [h, Memory.read_erase_same]
  · exact Memory.read_insert_same _ a v (Memory.absent_erase m a)

/-- A write leaves every other address alone. -/
theorem Memory.read_write_ne (m : Memory) {a b : Nat} (v : Byte) (h : b ≠ a) :
    (m.write a v).read b = m.read b := by
  unfold Memory.write
  split
  · exact Memory.read_erase_ne m h
  · rw [Memory.read_insert_ne _ v h, Memory.read_erase_ne m h]

/-- Both laws at once. -/
theorem Memory.read_write (m : Memory) (a b : Nat) (v : Byte) :
    (m.write a v).read b = if b = a then v else m.read b := by
  split
  · next h => rw [h, Memory.read_write_same]
  · next h => exact Memory.read_write_ne m v h

/-! ## The canonical form -/

theorem Memory.wfFrom_cons (size lo k : Nat) (v : Byte) (r : Memory) :
    Memory.wfFrom size lo ((k, v) :: r) = true ↔
      lo ≤ k ∧ k < size ∧ v ≠ 0 ∧ Memory.wfFrom size (k + 1) r = true := by
  simp [Memory.wfFrom, and_assoc]

theorem Memory.wfFrom_mono {size lo lo' : Nat} (m : Memory) (h : lo' ≤ lo)
    (hw : Memory.wfFrom size lo m = true) : Memory.wfFrom size lo' m = true := by
  cases m with
  | nil => rfl
  | cons e r =>
    obtain ⟨k, v⟩ := e
    rw [Memory.wfFrom_cons] at hw ⊢
    exact ⟨le_trans h hw.1, hw.2⟩

theorem Memory.wfFrom_erase {size lo : Nat} (m : Memory) (a : Nat)
    (hw : Memory.wfFrom size lo m = true) : Memory.wfFrom size lo (m.erase a) = true := by
  induction m generalizing lo with
  | nil => rfl
  | cons e r ih =>
    obtain ⟨k, v⟩ := e
    rw [Memory.wfFrom_cons] at hw
    by_cases hk : k = a
    · simp only [Memory.erase, hk, if_true]
      exact Memory.wfFrom_mono _ (by omega) (ih hw.2.2.2)
    · simp only [Memory.erase, hk, if_false, Memory.wfFrom_cons]
      exact ⟨hw.1, hw.2.1, hw.2.2.1, ih hw.2.2.2⟩

theorem Memory.wfFrom_insert {size lo : Nat} (m : Memory) (a : Nat) (v : Byte)
    (hlo : lo ≤ a) (hsize : a < size) (hv : v ≠ 0) (habs : m.absent a)
    (hw : Memory.wfFrom size lo m = true) : Memory.wfFrom size lo (m.insert a v) = true := by
  induction m generalizing lo with
  | nil => simpa [Memory.insert, Memory.wfFrom, hlo, hsize] using hv
  | cons e r ih =>
    obtain ⟨k, w⟩ := e
    rw [Memory.wfFrom_cons] at hw
    have hk : k ≠ a := habs (k, w) List.mem_cons_self
    by_cases hlt : a < k
    · simp only [Memory.insert, hlt, if_true, Memory.wfFrom_cons]
      exact ⟨hlo, hsize, hv, hlt, hw.2.1, hw.2.2.1, hw.2.2.2⟩
    · simp only [Memory.insert, hlt, if_false, Memory.wfFrom_cons]
      exact ⟨hw.1, hw.2.1, hw.2.2.1,
        ih (by omega) (fun x hx => habs x (List.mem_cons_of_mem _ hx)) hw.2.2.2⟩

/-- Every write inside an array keeps its canonical form. -/
theorem Memory.wf_write {size : Nat} (m : Memory) (a : Nat) (v : Byte) (h : a < size)
    (hw : m.wf size = true) : (m.write a v).wf size = true := by
  unfold Memory.wf Memory.write at *
  split
  · exact Memory.wfFrom_erase m a hw
  · next hv =>
    exact Memory.wfFrom_insert _ a v (Nat.zero_le a) h hv (Memory.absent_erase m a)
      (Memory.wfFrom_erase m a hw)

/-- Below the first address of a canonical array every address reads as 0x00. -/
theorem Memory.read_of_lt {size lo : Nat} (m : Memory) {a : Nat} (h : a < lo)
    (hw : Memory.wfFrom size lo m = true) : m.read a = 0 := by
  induction m generalizing lo with
  | nil => rfl
  | cons e r ih =>
    obtain ⟨k, v⟩ := e
    rw [Memory.wfFrom_cons] at hw
    have hk : k ≠ a := by omega
    simp only [Memory.read, hk, if_false]
    exact ih (by omega) hw.2.2.2

/-- Canonical arrays that read the same are the same data. -/
theorem Memory.ext_of_wfFrom {size lo lo' : Nat} (m n : Memory)
    (hm : Memory.wfFrom size lo m = true) (hn : Memory.wfFrom size lo' n = true)
    (h : ∀ a, m.read a = n.read a) : m = n := by
  induction m generalizing n lo lo' with
  | nil =>
    cases n with
    | nil => rfl
    | cons e r =>
      obtain ⟨k, v⟩ := e
      rw [Memory.wfFrom_cons] at hn
      have := h k
      simp [Memory.read] at this
      exact absurd this.symm hn.2.2.1
  | cons e r ih =>
    obtain ⟨k, v⟩ := e
    rw [Memory.wfFrom_cons] at hm
    cases n with
    | nil =>
      have := h k
      simp [Memory.read] at this
      exact absurd this hm.2.2.1
    | cons e' r' =>
      obtain ⟨k', v'⟩ := e'
      rw [Memory.wfFrom_cons] at hn
      have hkk : k = k' := by
        rcases Nat.lt_trichotomy k k' with hlt | heq | hgt
        · have := h k
          rw [show Memory.read ((k, v) :: r) k = v by simp [Memory.read],
            show Memory.read ((k', v') :: r') k = Memory.read r' k by simp [Memory.read, Nat.ne_of_gt hlt],
            Memory.read_of_lt r' (by omega) hn.2.2.2] at this
          exact absurd this hm.2.2.1
        · exact heq
        · have := h k'
          rw [show Memory.read ((k', v') :: r') k' = v' by simp [Memory.read],
            show Memory.read ((k, v) :: r) k' = Memory.read r k' by simp [Memory.read, Nat.ne_of_gt hgt],
            Memory.read_of_lt r (by omega) hm.2.2.2] at this
          exact absurd this.symm hn.2.2.1
      subst hkk
      have hv : v = v' := by simpa [Memory.read] using h k
      subst hv
      have : r = r' := by
        refine ih r' hm.2.2.2 hn.2.2.2 fun a => ?_
        have ha := h a
        by_cases hk : k = a
        · subst hk
          rw [Memory.read_of_lt r (by omega) hm.2.2.2, Memory.read_of_lt r' (by omega) hn.2.2.2]
        · simpa [Memory.read, hk] using ha
      rw [this]

end Sys2Proof.Machine
end

