-- ==== Sys2Proof/Laws/Ops.lean ====
section
/-! SUPPORT. What each shared operation does, said once. -/

namespace Sys2Proof.Machine

variable (s : State)

/-! ## Bytes and words -/

theorem joinBytes_toNat (hi lo : Byte) : (joinBytes hi lo).toNat = hi.toNat * 256 + lo.toNat := by
  have := lo.isLt
  simp only [joinBytes, BitVec.toNat_append]
  rw [← Nat.shiftLeft_add_eq_or_of_lt this, Nat.shiftLeft_eq]

theorem hiByte_toNat (w : Word) : (hiByte w).toNat = w.toNat / 256 := by
  have := w.isLt
  simp only [hiByte, BitVec.extractLsb'_toNat, Nat.shiftRight_eq_div_pow]
  omega

theorem loByte_toNat (w : Word) : (loByte w).toNat = w.toNat % 256 := by
  simp only [loByte, BitVec.extractLsb'_toNat, Nat.shiftRight_eq_div_pow]
  omega

@[simp] theorem hiByte_joinBytes (hi lo : Byte) : hiByte (joinBytes hi lo) = hi := by
  apply BitVec.eq_of_toNat_eq
  have := lo.isLt
  rw [hiByte_toNat, joinBytes_toNat]
  omega

@[simp] theorem loByte_joinBytes (hi lo : Byte) : loByte (joinBytes hi lo) = lo := by
  apply BitVec.eq_of_toNat_eq
  have := lo.isLt
  rw [loByte_toNat, joinBytes_toNat]
  omega

@[simp] theorem joinBytes_hiByte_loByte (w : Word) : joinBytes (hiByte w) (loByte w) = w := by
  apply BitVec.eq_of_toNat_eq
  rw [joinBytes_toNat, hiByte_toNat, loByte_toNat]
  omega

theorem pcPlus_toNat (n : Nat) : (s.pcPlus n).toNat = (s.pc.toNat + n) % 65536 := by
  simp [State.pcPlus, BitVec.toNat_add, BitVec.toNat_ofNat]

/-! ## MEM and STACK -/

/-- A byte read after a byte is written. -/
theorem memRead_memWrite (x y : Word) (v : Byte) :
    (s.memWrite x v).memRead y = if y = x then v else s.memRead y := by
  simp only [State.memRead, State.memWrite_mem, Memory.read_write, BitVec.toNat_inj]

/-- A stack cell read after a cell is written. -/
theorem stackRead_stackWrite (i j v : Byte) :
    (s.stackWrite i v).stackRead j = if j = i then v else s.stackRead j := by
  simp only [State.stackRead, State.stackWrite_stack, Memory.read_write, BitVec.toNat_inj]

theorem memRead_congr {s t : State} (h : t.mem = s.mem) (x : Word) : t.memRead x = s.memRead x := by
  unfold State.memRead; rw [h]

theorem stackRead_congr {s t : State} (h : t.stack = s.stack) (i : Byte) : t.stackRead i = s.stackRead i := by
  unfold State.stackRead; rw [h]

@[simp] theorem memRead_stackWrite (i v : Byte) (y : Word) : (s.stackWrite i v).memRead y = s.memRead y := rfl

@[simp] theorem stackRead_memWrite (x : Word) (v j : Byte) : (s.memWrite x v).stackRead j = s.stackRead j := rfl

@[simp] theorem memRead_setReg (r : Reg8) (v : Byte) (y : Word) : (s.setReg r v).memRead y = s.memRead y :=
  memRead_congr (State.setReg_mem s r v) y

@[simp] theorem stackRead_setReg (r : Reg8) (v j : Byte) : (s.setReg r v).stackRead j = s.stackRead j :=
  stackRead_congr (State.setReg_stack s r v) j

theorem memWrite_wf (x : Word) (v : Byte) (h : s.mem.wf memSize = true) :
    (s.memWrite x v).mem.wf memSize = true := Memory.wf_write _ _ _ x.isLt h

theorem stackWrite_wf (i v : Byte) (h : s.stack.wf stackSize = true) :
    (s.stackWrite i v).stack.wf stackSize = true := Memory.wf_write _ _ _ i.isLt h

/-! ## Registers -/

/-- A register read after one is written. -/
theorem reg_setReg (p q : Reg8) (v : Byte) : (s.setReg p v).reg q = if q = p then v else s.reg q := by
  cases p <;> cases q <;> rfl

@[simp] theorem hl_setHL (v : Word) : (s.setHL v).hl = v := by simp [State.hl]

/-! ## Stack discipline -/

/-- A stack cell read after a push. -/
theorem stackRead_push (v j : Byte) :
    (s.push v).stackRead j = if j = s.sp then v else s.stackRead j := stackRead_stackWrite s s.sp j v

/-- What a pop answers and leaves: the byte under SP, and SP one lower. -/
@[simp] theorem pop_fst : s.pop.1 = s.stackRead (s.sp - 1) := rfl

@[simp] theorem pop_snd : s.pop.2 = { s with sp := s.sp - 1 } := rfl

/-- What RET and RET_I pop: the low byte is under SP, the high byte under it. -/
theorem popPC_eq : s.popPC =
    (joinBytes (s.stackRead (s.sp - 1 - 1)) (s.stackRead (s.sp - 1)), { s with sp := s.sp - 1 - 1 }) := rfl

/-! ## Destination operands -/

/-- A byte of MEM read after a destination is written. -/
theorem memRead_writeLoc (o : Loc8) (v : Byte) (y : Word) :
    (s.writeLoc o v).memRead y = if some y = s.locMemAddr o then v else s.memRead y := by
  cases o with
  | reg r => simp [State.writeLoc, State.locMemAddr]
  | abs x => simpa [State.writeLoc, State.locMemAddr] using memRead_memWrite s x y v
  | hlInd => simpa [State.writeLoc, State.locMemAddr] using memRead_memWrite s s.hl y v
  | lInd => simpa [State.writeLoc, State.locMemAddr] using memRead_memWrite s s.lAddr y v
  | frame d => simp [State.writeLoc, State.locMemAddr]

/-- A stack cell read after a destination is written. -/
theorem stackRead_writeLoc (o : Loc8) (v j : Byte) :
    (s.writeLoc o v).stackRead j = if some j = s.locStackIndex o then v else s.stackRead j := by
  cases o with
  | reg r => simp [State.writeLoc, State.locStackIndex]
  | frame d => simpa [State.writeLoc, State.locStackIndex] using stackRead_stackWrite s (s.frameIndex d) j v
  | _ => simp [State.writeLoc, State.locStackIndex]

/-- A register read after a destination is written. -/
theorem reg_writeLoc (o : Loc8) (v : Byte) (q : Reg8) :
    (s.writeLoc o v).reg q = if o = .reg q then v else s.reg q := by
  cases o with
  | reg r => simp [State.writeLoc, reg_setReg, eq_comm]
  | _ => cases q <;> simp [State.writeLoc, State.reg]

theorem writeLoc_wf (o : Loc8) (v : Byte) (hm : s.mem.wf memSize = true) (hs : s.stack.wf stackSize = true) :
    (s.writeLoc o v).mem.wf memSize = true ∧ (s.writeLoc o v).stack.wf stackSize = true := by
  cases o with
  | reg r => simpa [State.writeLoc] using ⟨hm, hs⟩
  | frame d => exact ⟨hm, stackWrite_wf s _ v hs⟩
  | abs x => exact ⟨memWrite_wf s _ v hm, hs⟩
  | hlInd => exact ⟨memWrite_wf s _ v hm, hs⟩
  | lInd => exact ⟨memWrite_wf s _ v hm, hs⟩

/-! ## External draws -/

/-- All that a run of draws can do: it changes MEM at the addresses drawn, keeps its canonical form, and
counts the draws. -/
theorem drawAt_spec (xs : List Word) : ∀ s : State, ∃ m : Memory,
    s.drawAt xs = { s with mem := m, draws := s.draws + xs.length } ∧
      (∀ y : Word, y ∉ xs → m.read y.toNat = s.memRead y) ∧
      (s.mem.wf memSize = true → m.wf memSize = true) := by
  induction xs with
  | nil => exact fun s => ⟨s.mem, rfl, fun _ _ => rfl, id⟩
  | cons x r ih =>
    intro s
    obtain ⟨m, h1, h2, h3⟩ :=
      ih { s.memWrite x (Config.externalByte s.draws x) with draws := s.draws + 1 }
    refine ⟨m, ?_, ?_, ?_⟩
    · rw [State.drawAt, h1, List.length_cons]
      simp only [State.memWrite]
      congr 1
      omega
    · intro y hy
      rw [List.mem_cons, not_or] at hy
      rw [h2 y hy.2]
      exact (memRead_memWrite s x y _).trans (if_neg hy.1)
    · exact fun hw => h3 (memWrite_wf s x _ hw)

/-- With EXTERNAL_WRITE_REGION empty no byte is drawn. -/
theorem drawExternal_of_empty (h : s.params.externalWriteRegion = []) : s.drawExternal = s := by
  unfold State.drawExternal; rw [h]; rfl

end Sys2Proof.Machine
end

