-- ==== Sys2Proof/Laws/Frame.lean ====
section
/-! SUPPORT. What a write to a destination operand does and leaves alone, and what a run of steps does, in
the terms of Safety. -/

namespace Sys2Proof.Machine

variable (s : State) (o : Loc8) (v : Byte)

/-- The location written holds the value. -/
theorem locHolds_writeLoc : LocHolds s (s.writeLoc o v) o v := by
  cases o <;>
    simp [LocHolds, State.writeLoc, reg_setReg, memRead_memWrite, stackRead_stackWrite]

/-- Where a location is and what it holds depends on the registers, MEM and STACK alone. -/
theorem LocHolds.congr {s t u : State} {o : Loc8} {v : Byte} (h : LocHolds s t o v)
    (hr : ∀ r, u.reg r = t.reg r) (hm : u.mem = t.mem) (hs : u.stack = t.stack) : LocHolds s u o v := by
  cases o <;> simp_all [LocHolds, State.memRead, State.stackRead]

theorem regsKeptBut_writeLoc : RegsKeptBut (locRegs o) s (s.writeLoc o v) := by
  intro r hr
  rw [reg_writeLoc, if_neg]
  rintro rfl
  simp [locRegs] at hr

theorem memKeptBut_writeLoc : MemKeptBut (s.locMemAddr o) s (s.writeLoc o v) := fun x hx => by
  rw [memRead_writeLoc, if_neg hx]

theorem stackKeptBut_writeLoc : StackKeptBut (s.locStackIndex o).toList s (s.writeLoc o v) := fun i hi => by
  rw [stackRead_writeLoc, if_neg]
  intro h
  exact hi (by simp [← h])

theorem stackKeptBut_push : StackKeptBut [s.sp] s (s.push v) := fun i hi => by
  rw [stackRead_push, if_neg (by simpa using hi)]

/-- What a run of one more step does, after a step that answers a next state. -/
theorem steps_succ {s t : State} (h : step s = .next t) (n : Nat) : steps (n + 1) s = steps n t := by
  simp only [steps, h]

end Sys2Proof.Machine
end

