-- ==== Sys2Proof/Laws/PerInstr.lean ====
section
/-! SUPPORT. A statement for every instruction, as syntax, proved constructor by constructor. -/

namespace Sys2Proof.Laws.EncodeLength

/-- A well-formed instruction has as many bytes as its format says (spec R91, R97). -/
def Statement (i : Instr) : Prop := i.wf = true → (encode i).length = i.length

theorem halt : Statement .halt := fun _ => rfl
theorem noop : Statement .noop := fun _ => rfl
theorem ei : Statement .ei := fun _ => rfl
theorem di : Statement .di := fun _ => rfl
theorem et : Statement .et := fun _ => rfl
theorem dt : Statement .dt := fun _ => rfl
theorem reset : Statement .reset := fun _ => rfl
theorem unassigned (op) : Statement (.unassigned op) := fun _ => rfl
theorem jmp (v) : Statement (.jmp v) := fun _ => rfl
theorem jz (v) : Statement (.jz v) := fun _ => rfl
theorem jnz (v) : Statement (.jnz v) := fun _ => rfl
theorem js (v) : Statement (.js v) := fun _ => rfl
theorem jns (v) : Statement (.jns v) := fun _ => rfl
theorem jc (v) : Statement (.jc v) := fun _ => rfl
theorem jnc (v) : Statement (.jnc v) := fun _ => rfl
theorem jext (mode mask t) : Statement (.jext mode mask t) := fun _ => rfl
theorem call (v) : Statement (.call v) := fun _ => rfl
theorem ret : Statement .ret := fun _ => rfl
theorem retI (n) : Statement (.retI n) := fun _ => rfl
theorem enter (n) : Statement (.enter n) := fun _ => rfl
theorem leave : Statement .leave := fun _ => rfl
theorem ldhlI16 (v) : Statement (.ldhlI16 v) := fun _ => rfl
theorem addhlI16 (v) : Statement (.addhlI16 v) := fun _ => rfl
theorem addlI8 (v) : Statement (.addlI8 v) := fun _ => rfl
theorem push (o) : Statement (.push o) := by cases o <;> exact fun _ => rfl
theorem pop (o) : Statement (.pop o) := by cases o <;> exact fun _ => rfl
theorem load (o) : Statement (.load o) := by cases o <;> exact fun _ => rfl
theorem store (o) : Statement (.store o) := by cases o <;> intro h <;> first | rfl | cases h
theorem xch (o) : Statement (.xch o) := by cases o <;> exact fun _ => rfl
theorem clra : Statement .clra := fun _ => rfl
theorem add (o) : Statement (.add o) := by cases o <;> intro h <;> first | rfl | cases h
theorem adc (o) : Statement (.adc o) := by cases o <;> intro h <;> first | rfl | cases h
theorem sub (o) : Statement (.sub o) := by cases o <;> intro h <;> first | rfl | cases h
theorem sbc (o) : Statement (.sbc o) := by cases o <;> intro h <;> first | rfl | cases h
theorem and (o) : Statement (.and o) := by cases o <;> intro h <;> first | rfl | cases h
theorem or (o) : Statement (.or o) := by cases o <;> intro h <;> first | rfl | cases h
theorem xor (o) : Statement (.xor o) := by cases o <;> intro h <;> first | rfl | cases h
theorem cmp (o) : Statement (.cmp o) := by cases o <;> intro h <;> first | rfl | cases h
theorem min (o) : Statement (.min o) := by cases o <;> intro h <;> first | rfl | cases h
theorem max (o) : Statement (.max o) := by cases o <;> intro h <;> first | rfl | cases h
theorem shl (o) : Statement (.shl o) := by cases o <;> intro h <;> first | rfl | cases h
theorem shr (o) : Statement (.shr o) := by cases o <;> intro h <;> first | rfl | cases h
theorem rol (o) : Statement (.rol o) := by cases o <;> intro h <;> first | rfl | cases h
theorem ror (o) : Statement (.ror o) := by cases o <;> intro h <;> first | rfl | cases h
theorem inc (o) : Statement (.inc o) := by cases o <;> intro h <;> first | rfl | cases h
theorem incHL : Statement .incHL := fun _ => rfl
theorem dec (o) : Statement (.dec o) := by cases o <;> intro h <;> first | rfl | cases h
theorem decHL : Statement .decHL := fun _ => rfl
theorem neg (o) : Statement (.neg o) := by cases o <;> intro h <;> first | rfl | cases h
theorem negHL : Statement .negHL := fun _ => rfl
theorem not (o) : Statement (.not o) := by cases o <;> intro h <;> first | rfl | cases h
theorem notHL : Statement .notHL := fun _ => rfl
theorem addw (o) : Statement (.addw o) := by cases o <;> intro h <;> first | rfl | cases h
theorem subw (o) : Statement (.subw o) := by cases o <;> intro h <;> first | rfl | cases h
theorem mulw (o) : Statement (.mulw o) := by cases o <;> intro h <;> first | rfl | cases h
theorem divw (o) : Statement (.divw o) := by cases o <;> intro h <;> first | rfl | cases h

end Sys2Proof.Laws.EncodeLength
end

