-- ==== Sys2Proof/Tests/Slice0.lean ====
section
/-! SUPPORT. The model's own tests: ill-formed terms, words written out from the spec's encodings, one step
for each instruction from the spec's test vectors (95_test_vectors.md), the assembler's examples, and a
witness for the hypotheses of every obligation that has any. Every expected value comes from spec/. -/

open Sys2Proof
open Sys2Proof.Machine

namespace Sys2Proof.Tests

/-! ## WellFormed: one ill-formed term for each check (R94, R98, R124) -/

theorem test_wf_refuses_load_a : (Instr.load (.reg .a)).wf = false := by decide
theorem test_wf_refuses_store_a : (Instr.store (.reg .a)).wf = false := by decide
theorem test_wf_refuses_store_frame : (Instr.store (.frame 1)).wf = false := by decide
theorem test_wf_refuses_xch_a : (Instr.xch (.reg .a)).wf = false := by decide
theorem test_wf_refuses_alu_absolute : (Instr.add (.abs 0x0300)).wf = false := by decide
theorem test_wf_refuses_shift_a : (Instr.shl (.reg .a)).wf = false := by decide
theorem test_wf_refuses_shift_absolute : (Instr.ror (.abs 0x0300)).wf = false := by decide
theorem test_wf_refuses_unary_absolute : (Instr.inc (.abs 0x0300)).wf = false := by decide
theorem test_wf_refuses_wide_h : (Instr.addw (.reg .h)).wf = false := by decide
theorem test_wf_refuses_wide_memory : (Instr.divw .hlInd).wf = false := by decide
theorem test_wf_refuses_assigned_opcode : (Instr.unassigned 0x45).wf = false := by decide

/-! ## Decoding: words written out bit by bit from spec/opcode_table.json and R96 -/

/-- The decoder on a whole word answers the instruction and leaves nothing, and so does the encoder. -/
def word (bytes : List Byte) (i : Instr) : Bool :=
  decodeBytes bytes == .ok (i, []) && encode i == bytes

theorem test_decode_system :
    (word [0b00000000] (.halt) &&
      word [0b00000001] (.noop) &&
      word [0b00000010] (.ei) &&
      word [0b00000011] (.di) &&
      word [0b00000100] (.et) &&
      word [0b00000101] (.dt) &&
      word [0b00000110] (.reset) &&
      word [0b00000111] (.unassigned 0x07) &&
      word [0b11111111] (.unassigned 0xFF)) = true := by decide

theorem test_decode_jumps :
    (word [0b00001000, 0x12, 0x34] (.jmp 0x1234) &&
      word [0b00001001, 0x12, 0x34] (.jz 0x1234) &&
      word [0b00001010, 0x12, 0x34] (.jnz 0x1234) &&
      word [0b00001011, 0x12, 0x34] (.js 0x1234) &&
      word [0b00001100, 0x12, 0x34] (.jns 0x1234) &&
      word [0b00001101, 0x12, 0x34] (.jc 0x1234) &&
      word [0b00001110, 0x12, 0x34] (.jnc 0x1234) &&
      word [0b00001111, 0x43, 0x12, 0x34] (.jext .allSet 0x03 0x1234) &&
      word [0b00001111, 0xAA, 0x12, 0x34] (.jext .allClear 0x2A 0x1234)) = true := by decide

theorem test_decode_calls :
    (word [0b00010000, 0x12, 0x34] (.call 0x1234) &&
      word [0b00010001] (.ret) &&
      word [0b00010010, 0x05] (.retI 5) &&
      word [0b00010011, 0x05] (.enter 5) &&
      word [0b00010100] (.leave) &&
      word [0b00010101, 0x12, 0x34] (.ldhlI16 0x1234) &&
      word [0b00010110, 0x12, 0x34] (.addhlI16 0x1234) &&
      word [0b00010111, 0x05] (.addlI8 5)) = true := by decide

theorem test_decode_stack :
    (word [0b00011000] (.push (.reg .a)) &&
      word [0b00011101] (.push .bp) &&
      word [0b00011110] (.push .flags) &&
      word [0b00011111, 0x05] (.push (.imm 5)) &&
      word [0b00100100] (.pop (.reg .l)) &&
      word [0b00100101] (.pop .bp) &&
      word [0b00100110] (.pop .flags)) = true := by decide

theorem test_decode_data :
    (word [0b00101000, 0x12, 0x34] (.load (.abs 0x1234)) &&
      word [0b00101001] (.load (.reg .b)) &&
      word [0b00101101, 0x05] (.load (.imm 5)) &&
      word [0b11100010, 0x05] (.load (.frame 5)) &&
      word [0b11100100] (.clra) &&
      word [0b00110000, 0x12, 0x34] (.store (.abs 0x1234)) &&
      word [0b00110011] (.store (.reg .h)) &&
      word [0b00110110] (.store .hlInd) &&
      word [0b00111000, 0x12, 0x34] (.xch (.abs 0x1234)) &&
      word [0b00111111] (.xch .lInd) &&
      word [0b11100011, 0x05] (.xch (.frame 5))) = true := by decide

theorem test_decode_alu :
    (word [0b01000101, 0x05] (.add (.imm 5)) &&
      word [0b11010000, 0x05] (.add (.frame 5)) &&
      word [0b01001001] (.adc (.reg .b)) &&
      word [0b11010001, 0x05] (.adc (.frame 5)) &&
      word [0b01010110] (.sub .hlInd) &&
      word [0b11010010, 0x05] (.sub (.frame 5)) &&
      word [0b01011111] (.sbc .lInd) &&
      word [0b11010011, 0x05] (.sbc (.frame 5)) &&
      word [0b01100000] (.and (.reg .a)) &&
      word [0b11010100, 0x05] (.and (.frame 5)) &&
      word [0b01101011] (.or (.reg .h)) &&
      word [0b11010101, 0x05] (.or (.frame 5)) &&
      word [0b01110100] (.xor (.reg .l)) &&
      word [0b11010110, 0x05] (.xor (.frame 5)) &&
      word [0b01111010] (.cmp (.reg .c)) &&
      word [0b11010111, 0x05] (.cmp (.frame 5)) &&
      word [0b10000101, 0x05] (.min (.imm 5)) &&
      word [0b11011000, 0x05] (.min (.frame 5)) &&
      word [0b10001110] (.max .hlInd) &&
      word [0b11011001, 0x05] (.max (.frame 5))) = true := by decide

theorem test_decode_shifts :
    (word [0b10010101, 0x05] (.shl (.imm 5)) &&
      word [0b11011010, 0x05] (.shl (.frame 5)) &&
      word [0b10011001] (.shr (.reg .b)) &&
      word [0b11011011, 0x05] (.shr (.frame 5)) &&
      word [0b10100110] (.rol .hlInd) &&
      word [0b11011100, 0x05] (.rol (.frame 5)) &&
      word [0b10101100] (.ror (.reg .l)) &&
      word [0b11011101, 0x05] (.ror (.frame 5))) = true := by decide

theorem test_decode_unary :
    (word [0b10110000] (.inc (.reg .a)) &&
      word [0b10110101] (.incHL) &&
      word [0b11011110, 0x05] (.inc (.frame 5)) &&
      word [0b10111111] (.dec .lInd) &&
      word [0b10111101] (.decHL) &&
      word [0b11011111, 0x05] (.dec (.frame 5)) &&
      word [0b11000010] (.neg (.reg .c)) &&
      word [0b11000101] (.negHL) &&
      word [0b11100000, 0x05] (.neg (.frame 5)) &&
      word [0b11001110] (.not .hlInd) &&
      word [0b11001101] (.notHL) &&
      word [0b11100001, 0x05] (.not (.frame 5))) = true := by decide

theorem test_decode_wide :
    (word [0b11101000] (.addw (.reg .a)) &&
      word [0b11101101] (.subw (.reg .b)) &&
      word [0b11110010] (.mulw (.reg .c)) &&
      word [0b11110111, 0x05] (.divw (.imm 5))) = true := by decide

theorem test_decode_truncated : decodeBytes [0x08, 0x12] = .error .truncated := by decide
theorem test_decode_empty : decodeBytes [] = .error .noOpcode := by decide
theorem test_table_word : decodeTableWord 32 0x3412430F = some (.jext .allSet 0x03 0x1234) := by decide
theorem test_table_word_high_bits_zero : decodeTableWord 8 0x1208 = some (.jmp 0) := by decide

/-! ## One step: vectors of 95_test_vectors.md -/

/-- Put the bytes at PC and step: the step answers a next state that meets the check, and returns the first
byte as its opcode. -/
def stepMeets (s : State) (bytes : List Byte) (check : State → Bool) : Bool :=
  match (s.storeBytes s.pc bytes).hostStep with
  | (.next t, op) => check t && bytes.head? == some op
  | _ => false

/-- V-DM-01 (R160). -/
theorem test_load_reg : stepMeets { State.reset with b := 0x80 } [0x29]
    (fun t => t.a == 0x80 && t.f == 0x04 && t.pc == 0x0101) = true := by decide

/-- V-DM-08 (R160). -/
theorem test_load_frame_wraps : stepMeets (State.reset.stackWrite 0xFF 0x42) [0xE2, 0x00]
    (fun t => t.a == 0x42 && t.f == 0x00 && t.pc == 0x0102) = true := by decide

/-- V-DM-03 (R161). -/
theorem test_clra : stepMeets { State.reset with a := 0x9C, f := 0x05 } [0xE4]
    (fun t => t.a == 0x00 && t.f == 0x03 && t.pc == 0x0101) = true := by decide

/-- V-DM-10 (R162). -/
theorem test_store_hl_zero : stepMeets ({ State.reset with h := 0x03, l := 0x00, f := 0x01 }.memWrite 0x0300 0x77) [0x36]
    (fun t => t.f == 0x03 && t.memRead 0x0300 == 0x00 && t.pc == 0x0101) = true := by decide

/-- V-DM-12 (R162). -/
theorem test_store_l : stepMeets { State.reset with a := 0x2A, h := 0x05, l := 0x10 } [0x37]
    (fun t => t.f == 0x00 && t.memRead 0x0010 == 0x2A && t.pc == 0x0101) = true := by decide

/-- V-DM-13 (R163). -/
theorem test_xch_reg : stepMeets { State.reset with a := 0x01, h := 0x02 } [0x3B]
    (fun t => t.a == 0x02 && t.h == 0x01 && t.f == 0x00 && t.pc == 0x0101) = true := by decide

/-- V-DM-15 (R163). -/
theorem test_xch_frame : stepMeets ({ State.reset with a := 0x0E, bp := 0x04 }.stackWrite 0x04 0x33) [0xE3, 0x01]
    (fun t => t.a == 0x33 && t.f == 0x00 && t.stackRead 0x04 == 0x0E && t.pc == 0x0102) = true := by decide

/-- V-DM-17 (R164). -/
theorem test_ldhlI16 : stepMeets { State.reset with f := 0x07 } [0x15, 0x03, 0x00]
    (fun t => t.h == 0x03 && t.f == 0x07 && t.pc == 0x0103) = true := by decide

/-- V-DM-18 (R165). -/
theorem test_addhlI16 : stepMeets { State.reset with h := 0x03, l := 0x00 } [0x16, 0xFF, 0xFF]
    (fun t => t.h == 0x02 && t.l == 0xFF && t.f == 0x00 && t.pc == 0x0103) = true := by decide

/-- V-DM-21 (R166). -/
theorem test_addlI8_no_carry : stepMeets { State.reset with h := 0x12, l := 0xFF } [0x17, 0x01]
    (fun t => t.l == 0x00 && t.f == 0x00 && t.pc == 0x0102) = true := by decide

/-- V-AL-02 (R180). -/
theorem test_add_wraps : stepMeets { State.reset with a := 0xFF } [0x45, 0x01]
    (fun t => t.a == 0x00 && t.f == 0x03 && t.pc == 0x0102) = true := by decide

/-- V-AL-05 (R180). -/
theorem test_add_signed_overflow : stepMeets { State.reset with a := 0x7F, b := 0x01 } [0x41]
    (fun t => t.a == 0x80 && t.f == 0x04 && t.pc == 0x0101) = true := by decide

/-- V-AL-12 (R181). -/
theorem test_adc_self : stepMeets { State.reset with a := 0xFF, f := 0x01 } [0x48]
    (fun t => t.f == 0x05 && t.pc == 0x0101) = true := by decide

/-- V-AL-10 (R181). -/
theorem test_adc_carry : stepMeets { State.reset with a := 0x42, f := 0x01 } [0x4D, 0xFF]
    (fun t => t.f == 0x01 && t.pc == 0x0102) = true := by decide

/-- V-AL-13 (R182). -/
theorem test_sub_borrows : stepMeets { State.reset with a := 0x10 } [0x55, 0x20]
    (fun t => t.a == 0xF0 && t.f == 0x05 && t.pc == 0x0102) = true := by decide

/-- V-AL-16 (R182). -/
theorem test_sub_no_borrow : stepMeets { State.reset with a := 0x90, h := 0x80 } [0x53]
    (fun t => t.a == 0x10 && t.f == 0x00 && t.pc == 0x0101) = true := by decide

/-- V-AL-18 (R183). -/
theorem test_sbc_self : stepMeets { State.reset with a := 0x37, f := 0x01 } [0x58]
    (fun t => t.a == 0xFF && t.f == 0x05 && t.pc == 0x0101) = true := by decide

/-- V-AL-20 (R183). -/
theorem test_sbc_full : stepMeets { State.reset with a := 0x42, f := 0x01 } [0x5D, 0xFF]
    (fun t => t.f == 0x01 && t.pc == 0x0102) = true := by decide

/-- V-AL-23 (R184). -/
theorem test_and_keeps_carry : stepMeets { State.reset with a := 0xFF, f := 0x01 } [0x65, 0x00]
    (fun t => t.a == 0x00 && t.f == 0x03 && t.pc == 0x0102) = true := by decide

/-- V-AL-25 (R185). -/
theorem test_or : stepMeets { State.reset with a := 0x80 } [0x6D, 0x01]
    (fun t => t.a == 0x81 && t.f == 0x04 && t.pc == 0x0102) = true := by decide

/-- V-AL-27 (R186). -/
theorem test_xor_keeps_carry : stepMeets { State.reset with a := 0x5A, f := 0x01 } [0x70]
    (fun t => t.a == 0x00 && t.f == 0x03 && t.pc == 0x0101) = true := by decide

/-- V-AL-30 (R187). -/
theorem test_cmp_carry_not_written : stepMeets { State.reset with a := 0x00 } [0x7D, 0x01]
    (fun t => t.f == 0x04 && t.pc == 0x0102) = true := by decide

/-- V-AL-29 (R187). -/
theorem test_cmp_equal : stepMeets { State.reset with a := 0x08 } [0x7D, 0x08]
    (fun t => t.f == 0x02 && t.pc == 0x0102) = true := by decide

/-- V-UN-01 (R200). -/
theorem test_inc_wraps : stepMeets { State.reset with b := 0xFF } [0xB1]
    (fun t => t.b == 0x00 && t.f == 0x03 && t.pc == 0x0101) = true := by decide

/-- V-UN-05 (R200). -/
theorem test_inc_frame : stepMeets ({ State.reset with bp := 0x10 }.stackWrite 0x10 0x09) [0xDE, 0x01]
    (fun t => t.f == 0x00 && t.stackRead 0x10 == 0x0A && t.pc == 0x0102) = true := by decide

/-- V-UN-07 (R201). -/
theorem test_incHL_wraps : stepMeets { State.reset with h := 0xFF, l := 0xFF } [0xB5]
    (fun t => t.h == 0x00 && t.l == 0x00 && t.f == 0x03 && t.pc == 0x0101) = true := by decide

/-- V-UN-06 (R201). -/
theorem test_incHL_crosses_byte : stepMeets { State.reset with h := 0x00, l := 0xFF } [0xB5]
    (fun t => t.h == 0x01 && t.l == 0x00 && t.f == 0x00 && t.pc == 0x0101) = true := by decide

/-- V-UN-09 (R202). -/
theorem test_dec_wraps : stepMeets State.reset [0xBA]
    (fun t => t.c == 0xFF && t.f == 0x05 && t.pc == 0x0101) = true := by decide

/-- V-UN-11 (R202). -/
theorem test_dec_l : stepMeets ({ State.reset with l := 0x20 }.memWrite 0x0020 0x80) [0xBF]
    (fun t => t.f == 0x00 && t.memRead 0x0020 == 0x7F && t.pc == 0x0101) = true := by decide

/-- V-UN-12 (R203). -/
theorem test_decHL_wraps : stepMeets State.reset [0xBD]
    (fun t => t.h == 0xFF && t.l == 0xFF && t.f == 0x05 && t.pc == 0x0101) = true := by decide

/-- V-UN-16 (R204). -/
theorem test_neg_zero_keeps_carry : stepMeets { State.reset with f := 0x01 } [0xC0]
    (fun t => t.f == 0x03 && t.pc == 0x0101) = true := by decide

/-- V-UN-18 (R204). -/
theorem test_neg_frame : stepMeets ({ State.reset with bp := 0x05 }.stackWrite 0x04 0x02) [0xE0, 0x00]
    (fun t => t.f == 0x04 && t.stackRead 0x04 == 0xFE && t.pc == 0x0102) = true := by decide

/-- V-UN-20 (R205). -/
theorem test_negHL : stepMeets { State.reset with h := 0x01, l := 0x00 } [0xC5]
    (fun t => t.h == 0xFF && t.f == 0x04 && t.pc == 0x0101) = true := by decide

/-- V-UN-23 (R206). -/
theorem test_not_hl : stepMeets ({ State.reset with h := 0x03, l := 0x00 }.memWrite 0x0300 0xFF) [0xCE]
    (fun t => t.f == 0x02 && t.memRead 0x0300 == 0x00 && t.pc == 0x0101) = true := by decide

/-- V-UN-24 (R207). -/
theorem test_notHL : stepMeets { State.reset with h := 0x00, l := 0xFF } [0xCD]
    (fun t => t.h == 0xFF && t.l == 0x00 && t.f == 0x04 && t.pc == 0x0101) = true := by decide

/-- V-SH-02 (R220). -/
theorem test_shl_drops_bit : stepMeets { State.reset with a := 0x80, f := 0x01 } [0x95, 0x01]
    (fun t => t.a == 0x00 && t.f == 0x03 && t.pc == 0x0102) = true := by decide

/-- V-SH-03 (R220). -/
theorem test_shl_count_mod_8 : stepMeets { State.reset with a := 0x01 } [0x95, 0x09]
    (fun t => t.a == 0x02 && t.f == 0x00 && t.pc == 0x0102) = true := by decide

/-- V-SH-07 (R221). -/
theorem test_shr_logical : stepMeets { State.reset with a := 0x80 } [0x9D, 0x07]
    (fun t => t.a == 0x01 && t.f == 0x00 && t.pc == 0x0102) = true := by decide

/-- V-SH-11 (R222). -/
theorem test_rol : stepMeets { State.reset with a := 0x12 } [0xA5, 0x04]
    (fun t => t.a == 0x21 && t.f == 0x00 && t.pc == 0x0102) = true := by decide

/-- V-SH-15 (R223). -/
theorem test_ror : stepMeets { State.reset with a := 0x81 } [0xAD, 0x03]
    (fun t => t.a == 0x30 && t.f == 0x00 && t.pc == 0x0102) = true := by decide

/-- V-SH-16 (R223). -/
theorem test_ror_frame : stepMeets ({ State.reset with a := 0x81, bp := 0x02 }.stackWrite 0x02 0x05) [0xDD, 0x01]
    (fun t => t.a == 0x0C && t.f == 0x00 && t.pc == 0x0102) = true := by decide

/-- V-SH-18 (R224). -/
theorem test_min_unsigned : stepMeets { State.reset with a := 0x80 } [0x85, 0x7F]
    (fun t => t.a == 0x7F && t.f == 0x00 && t.pc == 0x0102) = true := by decide

/-- V-SH-22 (R225). -/
theorem test_max_unsigned : stepMeets { State.reset with a := 0x7F } [0x8D, 0x80]
    (fun t => t.a == 0x80 && t.f == 0x04 && t.pc == 0x0102) = true := by decide

/-- V-WD-04 (R240). -/
theorem test_addw_z_from_h : stepMeets { State.reset with c := 0x05, h := 0x00, l := 0x10 } [0xEA]
    (fun t => t.l == 0x15 && t.f == 0x02 && t.pc == 0x0101) = true := by decide

/-- V-WD-02 (R240). -/
theorem test_addw_wraps : stepMeets { State.reset with h := 0xFF, l := 0xFF, f := 0x01 } [0xEB, 0x01]
    (fun t => t.h == 0x00 && t.l == 0x00 && t.f == 0x03 && t.pc == 0x0102) = true := by decide

/-- V-WD-05 (R241). -/
theorem test_subw : stepMeets { State.reset with h := 0x03, l := 0x00 } [0xEF, 0x01]
    (fun t => t.h == 0x02 && t.l == 0xFF && t.f == 0x00 && t.pc == 0x0102) = true := by decide

/-- V-WD-10 (R242). -/
theorem test_mulw_low_half : stepMeets { State.reset with b := 0x02, h := 0x80, l := 0x00 } [0xF1]
    (fun t => t.h == 0x00 && t.f == 0x02 && t.pc == 0x0101) = true := by decide

/-- V-WD-14 (R243). -/
theorem test_divw_truncates : stepMeets { State.reset with h := 0x00, l := 0x64 } [0xF7, 0x07]
    (fun t => t.l == 0x0E && t.f == 0x02 && t.pc == 0x0102) = true := by decide

/-- V-CT-02 (R260). -/
theorem test_jmp_operand_wraps : stepMeets { State.reset with pc := 0xFFFE } [0x08, 0x12, 0x34]
    (fun t => t.f == 0x00 && t.pc == 0x1234) = true := by decide

/-- V-CT-03 (R261). -/
theorem test_jz_taken : stepMeets { State.reset with f := 0x02 } [0x09, 0x01, 0x80]
    (fun t => t.f == 0x02 && t.pc == 0x0180) = true := by decide

/-- V-CT-04 (R261). -/
theorem test_jz_not_taken : stepMeets { State.reset with f := 0x7D } [0x09, 0x01, 0x80]
    (fun t => t.f == 0x7D && t.pc == 0x0103) = true := by decide

/-- V-CT-06 (R262). -/
theorem test_jnz_not_taken : stepMeets { State.reset with f := 0x02 } [0x0A, 0x01, 0x08]
    (fun t => t.f == 0x02 && t.pc == 0x0103) = true := by decide

/-- V-CT-07 (R263). -/
theorem test_js_taken : stepMeets { State.reset with f := 0x04 } [0x0B, 0x03, 0x00]
    (fun t => t.f == 0x04 && t.pc == 0x0300) = true := by decide

/-- V-CT-09 (R264). -/
theorem test_jns_taken : stepMeets State.reset [0x0C, 0x03, 0x00]
    (fun t => t.f == 0x00 && t.pc == 0x0300) = true := by decide

/-- V-CT-12 (R265). -/
theorem test_jc_not_taken : stepMeets { State.reset with f := 0x7E } [0x0D, 0x02, 0x00]
    (fun t => t.f == 0x7E && t.pc == 0x0103) = true := by decide

/-- V-CT-13 (R266). -/
theorem test_jnc_taken : stepMeets State.reset [0x0E, 0x02, 0x00]
    (fun t => t.f == 0x00 && t.pc == 0x0200) = true := by decide

/-- V-CT-16 (R267). -/
theorem test_jext_not_taken : stepMeets { State.reset with f := 0x01 } [0x0F, 0x43, 0x02, 0x00]
    (fun t => t.f == 0x01 && t.pc == 0x0104) = true := by decide

/-- V-CT-29 (R268). -/
theorem test_call_sp_wraps : stepMeets { State.reset with sp := 0xFF } [0x10, 0x02, 0x00]
    (fun t => t.sp == 0x01 && t.f == 0x00 && t.stackRead 0x00 == 0x03 && t.stackRead 0xFF == 0x01 && t.pc == 0x0200) = true := by decide

/-- V-CT-31 (R269). -/
theorem test_ret_sp_wraps : stepMeets (({ State.reset with sp := 0x01 }.stackWrite 0x00 0x34).stackWrite 0xFF 0x12) [0x11]
    (fun t => t.sp == 0xFF && t.f == 0x00 && t.pc == 0x1234) = true := by decide

/-- V-CT-34 (R270). -/
theorem test_retI : stepMeets (({ State.reset with sp := 0x02 }.stackWrite 0x00 0x01).stackWrite 0x01 0x06) [0x12, 0xFF]
    (fun t => t.sp == 0x01 && t.f == 0x00 && t.pc == 0x0106) = true := by decide

/-- V-SK-06 (R280). -/
theorem test_push_wraps : stepMeets { State.reset with l := 0x01, sp := 0xFF } [0x1C]
    (fun t => t.sp == 0x00 && t.f == 0x00 && t.stackRead 0xFF == 0x01 && t.pc == 0x0101) = true := by decide

/-- V-SK-05 (R280). -/
theorem test_push_flags : stepMeets { State.reset with f := 0xC5 } [0x1E]
    (fun t => t.sp == 0x01 && t.f == 0xC5 && t.stackRead 0x00 == 0xC5 && t.pc == 0x0101) = true := by decide

/-- V-SK-08 (R281). -/
theorem test_pop_wraps : stepMeets ({ State.reset with a := 0x11 }.stackWrite 0xFF 0x00) [0x20]
    (fun t => t.a == 0x00 && t.sp == 0xFF && t.f == 0x02 && t.pc == 0x0101) = true := by decide

/-- V-SK-10 (R281). -/
theorem test_pop_flags : stepMeets ({ State.reset with sp := 0x01 }.stackWrite 0x00 0xFF) [0x26]
    (fun t => t.sp == 0x00 && t.f == 0xFF && t.pc == 0x0101) = true := by decide

/-- V-SK-13 (R282). -/
theorem test_enter : stepMeets { State.reset with sp := 0x03, bp := 0x02 } [0x13, 0x01]
    (fun t => t.sp == 0x05 && t.bp == 0x04 && t.f == 0x00 && t.stackRead 0x03 == 0x02 && t.pc == 0x0102) = true := by decide

/-- V-SK-16 (R283). -/
theorem test_leave : stepMeets ({ State.reset with sp := 0x05, bp := 0x04 }.stackWrite 0x03 0x02) [0x14]
    (fun t => t.sp == 0x03 && t.bp == 0x02 && t.f == 0x00 && t.pc == 0x0101) = true := by decide

/-- V-SY-01 (R300). -/
theorem test_noop : stepMeets { State.reset with a := 0x12, f := 0x5A } [0x01]
    (fun t => t.f == 0x5A && t.pc == 0x0101) = true := by decide

/-- V-SY-02 (R301). -/
theorem test_halt : stepMeets { State.reset with pc := 0x0105, a := 0x12 } [0x00]
    (fun t => t.f == 0x00 && t.pc == 0x0105) = true := by decide

/-- V-SY-03 (R302). -/
theorem test_ei : stepMeets State.reset [0x02]
    (fun t => t.f == 0x20 && t.pc == 0x0101) = true := by decide

/-- V-SY-04 (R303). -/
theorem test_di : stepMeets { State.reset with f := 0x21 } [0x03]
    (fun t => t.f == 0x01 && t.pc == 0x0101) = true := by decide

/-- V-SY-05 (R304). -/
theorem test_et : stepMeets State.reset [0x04]
    (fun t => t.f == 0x40 && t.pc == 0x0101) = true := by decide

/-- V-SY-06 (R305). -/
theorem test_dt : stepMeets { State.reset with f := 0x43 } [0x05]
    (fun t => t.f == 0x03 && t.pc == 0x0101) = true := by decide

/-- V-SY-08 (R307). -/
theorem test_unassigned : stepMeets { State.reset with a := 0x01, f := 0x01 } [0x07, 0x45]
    (fun t => t.f == 0x01 && t.pc == 0x0101) = true := by decide

/-- V-CY-01 (R142). -/
theorem test_fetch_wraps : stepMeets ({ State.reset with pc := 0xFFFF }.memWrite 0x0000 0x42) [0x2D]
    (fun t => t.a == 0x42 && t.f == 0x00 && t.pc == 0x0001) = true := by decide

/-- V-WD-19 (R243). -/
theorem test_divw_by_zero_parameter : stepMeets { (State.initial { Params.default with divwByZeroResult := 0x1234 } 0) with h := 0x00, l := 0x42 } [0xF7, 0x00]
    (fun t => t.h == 0x12 && t.l == 0x34 && t.f == 0x00 && t.pc == 0x0102) = true := by decide

/-- V-CT-17 (R267). -/
theorem test_jext_not_taken_parameter : stepMeets { (State.initial { Params.default with jextNotTakenAdvance := .opcodeOnly } 0) with f := 0x01 } [0x0F, 0x43, 0x02, 0x00]
    (fun t => t.f == 0x01 && t.pc == 0x0101) = true := by decide

/-- V-SY-07 (R306). -/
theorem test_reset : stepMeets ({ State.reset with pc := 0x0234, a := 0x12, f := 0x41, sp := 5 }.memWrite 0x0300 0xAA)
    [0x06] (fun t => t == (State.reset.memWrite 0x0234 0x06).memWrite 0x0300 0xAA) = true := by decide

/-- V-SY-07b (R306), RESET_CLEARS_MEMORY = true. -/
theorem test_reset_clears_memory :
    stepMeets ({ State.initial { Params.default with resetClearsMemory := true } 0 with pc := 0x0234, a := 0x12 }.memWrite
      0x0300 0xAA) [0x06]
    (fun t => t == State.initial { Params.default with resetClearsMemory := true } 0) = true := by decide

/-! ## The host port, and the first step after reset -/

theorem test_reset_inv : State.reset.Inv := by unfold State.Inv; decide

/-- With nothing loaded, the first step from reset is a HALT at 0x0100 (R50, R148). -/
theorem test_first_step_from_reset_halts : step State.reset = .next State.reset ∧ State.reset.halted = true :=
  ⟨rfl, by decide⟩

theorem test_withFetchWord : step (State.reset.withFetchWord 16 0x052D) =
    .next { State.reset.withFetchWord 16 0x052D with a := 5, pc := 0x0102 } := rfl

/-- ET, NOOP, HALT (R155): RUN pauses after the step that leaves F.T set, and again when it goes on. -/
theorem test_run_pauses_on_trap :
    ((State.reset.storeBytes 0x0100 [0x04, 0x01, 0x00]).hostRun 3) =
      .paused { State.reset.storeBytes 0x0100 [0x04, 0x01, 0x00] with pc := 0x0101, f := 0x40 } := by decide

theorem test_run_halts :
    ((State.reset.storeBytes 0x0100 [0x01, 0x00]).hostRun 3) =
      .halted { State.reset.storeBytes 0x0100 [0x01, 0x00] with pc := 0x0101 } := by decide

theorem test_run_stopped :
    ((State.reset.storeBytes 0x0100 [0x01, 0x01]).hostRun 1) =
      .stopped { State.reset.storeBytes 0x0100 [0x01, 0x01] with pc := 0x0101 } := by decide

/-! ## The assembler (R120 to R133) -/

/-- The code and the diagnostics of a text, with the defaults of R5. -/
def code (src : String) : Option (List Byte × List Diag) :=
  match assemble Params.default src.toList with
  | .ok a => some (a.code, a.diags)
  | .error _ => none

/-- Program P1 (scenario A); an undefined label leaves its placeholder and draws one diagnostic (scenario C);
300 is emitted as 44, with a warning (scenario E). -/
theorem test_asm_scenarios :
    code "LOAD 5\nADD 3\nHALT" = some ([0x2D, 0x05, 0x45, 0x03, 0x00, 0x00], []) ∧
    code "JMP .nowhere" = some ([0x08, 0x00, 0x00, 0x00], [⟨.undefinedLabel, 1, 5⟩]) ∧
    code "LOAD 300" = some ([0x2D, 0x2C, 0x00], [⟨.immediateTruncated, 1, 6⟩]) := by decide +kernel

/-- R125: an absolute ALU operand goes through HL, a label is patched (R130), an offset on HL is added to HL
for good; a base takes a sign as a literal does (R123), two bases are rejected (scenario D). -/
theorem test_asm_memory_expressions :
    code "x:\nADD (0x0300)\nJMP .x" = some ([0x15, 0x03, 0x00, 0x46, 0x08, 0x01, 0x00, 0x00], []) ∧
    code "LOAD (HL-1)" = some ([0x16, 0xFF, 0xFF, 0x2E, 0x00], []) ∧
    code "LOAD (5-HL)\nLOAD (-L)" = some ([0x16, 0x00, 0x05, 0x2E, 0x2F, 0x00], []) ∧
    parseLine 12 (lexLine "LOAD (HL+L)".toList) = .error (.diag .multipleBase 10) := by decide +kernel

/-- The diagnostics the model chooses (log entry 16) for the texts it names. -/
theorem test_asm_chosen_diagnostics :
    parseLine 8 (lexLine "ADD A $".toList) = .error (.diag .unexpectedToken 7) ∧
    parseLine 7 (lexLine "HALT $".toList) = .error (.diag .operandSupplied 6) ∧
    parseLine 7 (lexLine ".x = $".toList) = .error (.diag .expectedOperator 1) :=
  ⟨rfl, rfl, rfl⟩

/-- R120: a keyword prefix that no delimiter follows is label text, and a name like another (R122, R130). -/
theorem test_asm_keyword_prefix :
    (lexLine "LOADER A: Bx LOAD".toList).map LexToken.tok =
      [.text "LOADER".toList, .labelDef "A".toList, .text "Bx".toList, .mnem .load] ∧
    code "LOADER:\nJMP .LOADER" = some ([0x08, 0x01, 0x00, 0x00], []) := by decide +kernel

/-! ## Witnesses: states and operands that meet an obligation's hypotheses -/

theorem witness_load_forms : (Instr.load (.reg .l)).wf = true ∧ (Instr.load (.imm 0xFF)).wf = true ∧
    (Instr.load (.abs 0xFFFF)).wf = true ∧ (Instr.load .hlInd).wf = true ∧ (Instr.load .lInd).wf = true ∧
    (Instr.load (.frame 0)).wf = true := by decide

theorem witness_store_forms : (Instr.store (.reg .b)).wf = true ∧ (Instr.store (.abs 0)).wf = true ∧
    (Instr.store .hlInd).wf = true ∧ (Instr.store .lInd).wf = true := by decide

theorem witness_xch_forms : (Instr.xch (.reg .h)).wf = true ∧ (Instr.xch (.abs 0xFFFF)).wf = true ∧
    (Instr.xch .hlInd).wf = true ∧ (Instr.xch .lInd).wf = true ∧ (Instr.xch (.frame 0)).wf = true := by decide

theorem witness_add_adc_forms : ∀ o ∈ [Src8.reg .a, .imm 0, .hlInd, .lInd, .frame 0xFF],
    (Instr.add o).wf = true ∧ (Instr.adc o).wf = true := by decide

theorem witness_sub_sbc_cmp_forms : ∀ o ∈ [Src8.reg .a, .imm 0, .hlInd, .lInd, .frame 0xFF],
    (Instr.sub o).wf = true ∧ (Instr.sbc o).wf = true ∧ (Instr.cmp o).wf = true := by decide

theorem witness_logic_min_max_forms : ∀ o ∈ [Src8.reg .a, .imm 0, .hlInd, .lInd, .frame 0xFF],
    (Instr.and o).wf = true ∧ (Instr.min o).wf = true := by decide

theorem witness_unary_forms : ∀ o ∈ [Loc8.reg .a, .hlInd, .lInd, .frame 0],
    (Instr.inc o).wf = true ∧ (Instr.dec o).wf = true ∧ (Instr.neg o).wf = true ∧ (Instr.not o).wf = true := by
  decide

theorem witness_shift_forms : ∀ o ∈ [Src8.reg .b, .imm 0xFF, .hlInd, .lInd, .frame 0], (Instr.shl o).wf = true := by
  decide

theorem witness_wide_forms : ∀ o ∈ [Src8.reg .a, .reg .c, .imm 0],
    (Instr.addw o).wf = true ∧ (Instr.divw o).wf = true := by decide

/-- DIVW: a divisor of 0 and one that is not. -/
theorem witness_divw_both_clauses : (State.reset.src8 (.imm 0)).toNat = 0 ∧ (State.reset.src8 (.imm 1)).toNat ≠ 0 := by
  decide

/-- SUBW undoes ADDW: two operand forms with one value. -/
theorem witness_same_source : (Instr.addw (.reg .a)).wf = true ∧ (Instr.subw (.imm 0)).wf = true ∧
    State.reset.src8 (.imm 0) = State.reset.src8 (.reg .a) := by decide

/-- The conditional jumps: each flag value occurs. -/
theorem witness_conditional_jumps : State.reset.flag .z = false ∧ { State.reset with f := 0x02 }.flag .z = true := by
  decide

/-- JEXT: each predicate holds somewhere and fails somewhere, at an empty and a full mask among others. -/
theorem witness_jext : ¬ JextCondition .anySet 0 State.reset ∧ JextCondition .anySet 0x3F { State.reset with f := 0x20 } ∧
    JextCondition .allSet 0 State.reset ∧ ¬ JextCondition .allSet 0x20 State.reset ∧
    JextCondition .allClear 0x3F { State.reset with f := 0xC0 } ∧
    ¬ JextCondition .allClear 1 { State.reset with f := 1 } ∧
    JextCondition .anyClear 3 { State.reset with f := 1 } ∧ ¬ JextCondition .anyClear 0 State.reset := by
  simp only [JextCondition]
  decide

theorem witness_push_both_clauses : PushSrc.bp ≠ .flags ∧ PushSrc.flags = .flags := by decide

theorem witness_pop_clauses : PopDst.reg .a = .reg .a ∧ PopDst.bp ≠ .flags ∧ PopDst.flags = .flags := by decide

theorem witness_unassigned : (0x07 : Byte) ∈ unassignedOpcodes ∧ (0xFF : Byte) ∈ unassignedOpcodes := by decide

theorem witness_halt : State.reset.params.externalWriteRegion = [] ∧ State.reset.memRead State.reset.pc = 0 := by
  decide

theorem witness_host_load : ([] : List Byte).length ≤ 65536 ∧ (List.replicate 65536 (1 : Byte)).length ≤ 65536 ∧
    65536 < (List.replicate 65537 (1 : Byte)).length :=
  ⟨Nat.zero_le _, List.length_replicate.le, Nat.lt_of_lt_of_eq (by decide) List.length_replicate.symm⟩

theorem witness_halted_state : State.reset.halted = true ∧ State.reset.params.externalWriteRegion = [] := by decide

/-- The bytes of a four-byte instruction that wraps over the end of MEM. -/
theorem witness_step_runs : (Instr.jext .allSet 3 0x0200).wf = true ∧
    ∀ k, k < (encode (.jext .allSet 3 0x0200)).length → (encode (.jext .allSet 3 0x0200))[k]? =
      some (({ State.reset with pc := 0xFFFE }.storeBytes 0xFFFE [0x0F, 0x43, 0x02, 0x00]).drawExternal.memRead
        (0xFFFE + BitVec.ofNat 16 k)) := by decide

/-- A state with two external bytes. -/
def withRegion : State := State.initial { Params.default with externalWriteRegion := [0x00FE, 0x00FF] } 0

theorem witness_external_writes : withRegion.params.externalWriteRegion.Nodup ∧
    withRegion.params.externalWriteRegion[1]? = some 0x00FF ∧ 0x0100 ∉ withRegion.params.externalWriteRegion := by
  decide

theorem witness_step_keeps : State.reset.Inv ∧ step State.reset = .next State.reset :=
  ⟨test_reset_inv, test_first_step_from_reset_halts.1⟩

/-- Halted states: with no external agent (`witness_halted_state`), and with a region beside PC. -/
theorem witness_halted_beside_region : withRegion.halted = true ∧
    withRegion.pc ∉ withRegion.params.externalWriteRegion := by decide

theorem witness_mnemonics : (directMnems.map Prod.fst = [.load, .store, .xch]) ∧
    throughHLMnems.length = 18 ∧ Mnem.cmp ∈ throughHLMnems.map Prod.fst ∧ Mnem.xch ≠ .store := by decide

theorem witness_mnemonic_forms : Mnem.add.srcForm = some .add ∧ Mnem.inc.unaryForm = some (.inc, .incHL) :=
  ⟨rfl, rfl⟩

theorem witness_may_not_write : mayWrite .noop .c = false ∧ mayWrite (.and (.reg .b)) .c = false ∧
    mayWrite (.push .flags) .z = false ∧ mayWrite (.add (.imm 0)) .o = false ∧ mayWrite .et .r7 = false := by decide

theorem witness_not_reset : Instr.call 0xFFFF ≠ .reset ∧ Instr.xch (.frame 0) ≠ .reset := by decide

theorem witness_inert_flags : Flag.t ∈ [Flag.o, .ac, .i, .t, .r7] ∧ Instr.jext .anySet 0 0 ≠ .push .flags ∧
    ∀ mode mask x, Instr.jext .anySet 0 0 = .jext mode mask x → Flag.t = .t ∨ Flag.t = .r7 :=
  ⟨by decide, by decide, fun _ _ _ _ => .inl rfl⟩

theorem witness_operand_forms : toLoc (.frame 1) = some (.frame 1) ∧ toLoc .hlInd = some .hlInd := by decide

theorem witness_round_trip : (Instr.jext .anyClear 0x3F 0xFFFF).wf = true ∧ (Instr.unassigned 0xFF).wf = true := by
  decide

theorem witness_offset : ((0xFFFF : Word) ≠ 0 ∨ (none : Option LabelUse) ≠ none) ∧
    ((0 : Word) ≠ 0 ∨ some (LabelUse.mk ['x'] 1) ≠ none) ∧ (0x0100 : Word) ≠ 0 := by decide

theorem witness_patch : 0 + 1 < ([0x08, 0x00] : List Byte).length ∧
    siteBase (patchAt [0x08, 0x00] 0 0xF901) 0 = 0x0101 := by decide

theorem witness_assemble : assemble Params.default "JMP .x\nx:".toList = .ok ⟨[0x08, 0x01, 0x03, 0x00], []⟩ := by
  decide +kernel

/-- Code of `n` bytes NOOP. -/
def noops (n : Nat) : Assembled := ⟨List.replicate n 1, []⟩

/-- Code that ends at the last byte of MEM. -/
theorem witness_loaded_executable :
    State.reset.params.programStart.toNat + (noops 65280).code.length ≤ 65536 := by
  rw [show (noops 65280).code.length = 65280 from List.length_replicate]
  decide

end Sys2Proof.Tests
end

section
/-! PROOFS. Scope (spec file 00): the parameters of R5 and the count of external draws.

Only the external draws before an instruction touch the model's own fields; every instruction keeps them.
So a step changes them as `State.drawExternal` does. -/

namespace Sys2Proof.Machine

/-! ## The external draws -/

@[simp] theorem State.drawExternal_params (s : State) : s.drawExternal.params = s.params := by
  obtain ⟨m, hdraw, -, -⟩ := drawAt_spec s.params.externalWriteRegion s
  rw [State.drawExternal, hdraw]

@[simp] theorem State.drawExternal_draws (s : State) :
    s.drawExternal.draws = s.draws + s.params.externalWriteRegion.length := by
  obtain ⟨m, hdraw, -, -⟩ := drawAt_spec s.params.externalWriteRegion s
  rw [State.drawExternal, hdraw]

/-! ## The instructions -/

theorem ownKept_branch (s : State) (taken : Bool) (target : Word) (n : Nat) :
    OwnKept s (s.branch taken target n) := by
  cases taken
  · exact ⟨s.advance_params n, s.advance_draws n⟩
  · exact ⟨s.setPC_params target, s.setPC_draws target⟩

theorem ownKept_writeLoc (s : State) (o : Loc8) (v : Byte) : OwnKept s (s.writeLoc o v) :=
  ⟨s.writeLoc_params o v, s.writeLoc_draws o v⟩

theorem ownKept_push_pushFlags (s : State) (o : PushSrc) (v : Byte) : OwnKept s ((s.push v).pushFlags o v) :=
  ⟨(s.push v).pushFlags_params o v, (s.push v).pushFlags_draws o v⟩

theorem ownKept_pop_popInto (s : State) (o : PopDst) (v : Byte) : OwnKept s (s.pop.2.popInto o v) :=
  ⟨s.pop.2.popInto_params o v, s.pop.2.popInto_draws o v⟩

/-- Every instruction answers a next state, RESET included (R306), with the model's own fields kept. The named
cases choose an update by a flag or an operand form; the others set registers, flags, cells and PC directly. -/
theorem exec_next_ownKept (i : Instr) (s : State) : ∃ t, exec i s = .next t ∧ OwnKept s t := by
  cases i with
  | jz target | jnz target | js target | jns target | jc target | jnc target | jext _ _ target =>
    exact ⟨_, rfl, ownKept_branch s _ target _⟩
  | store o | xch o | inc o | dec o | neg o | not o => exact ⟨_, rfl, ownKept_writeLoc s o _⟩
  | push o => exact ⟨_, rfl, ownKept_push_pushFlags s o _⟩
  | pop o => exact ⟨_, rfl, ownKept_pop_popInto s o _⟩
  | _ => exact ⟨_, rfl, rfl, rfl⟩

theorem ownKept_of_exec {i : Instr} {s t : State} (h : exec i s = .next t) : OwnKept s t := by
  obtain ⟨t', hexec, hown⟩ := exec_next_ownKept i s
  cases hexec.symm.trans h
  exact hown

/-- Settles O45: the draws count themselves, and the instruction then keeps both fields. -/
theorem stepKeepsTheParameters : Obligations.StepKeepsTheParameters := by
  unfold Obligations.StepKeepsTheParameters
  intro s t hstep
  obtain ⟨hparams, hdraws⟩ := ownKept_of_exec hstep
  exact ⟨hparams.trans s.drawExternal_params, hdraws.trans s.drawExternal_draws⟩

end Sys2Proof.Machine
end

section
/-! PROOFS. Scope (spec file 10): the canonical form of MEM and STACK.

Every instruction stores through `Memory.write` at an address within the array, which keeps the form, or
leaves the array as it is, or empties it. -/

namespace Sys2Proof.Machine

/-! ## The canonical form of the state -/

/-- The canonical form depends on MEM and STACK alone. -/
theorem State.Inv.congr {s t : State} (hs : s.Inv) (hmem : t.mem = s.mem) (hstack : t.stack = s.stack) :
    t.Inv := by
  obtain ⟨hm, hst⟩ := hs
  exact ⟨hmem ▸ hm, hstack ▸ hst⟩

theorem initial_inv (p : Params) (n : Nat) : (State.initial p n).Inv := ⟨rfl, rfl⟩

/-! ## Every update keeps it -/

theorem State.Inv.writeLoc {s : State} (hs : s.Inv) (o : Loc8) (v : Byte) : (s.writeLoc o v).Inv :=
  writeLoc_wf s o v hs.1 hs.2

theorem State.Inv.push {s : State} (hs : s.Inv) (v : Byte) : (s.push v).Inv :=
  ⟨hs.1, stackWrite_wf s s.sp v hs.2⟩

theorem State.Inv.branch {s : State} (hs : s.Inv) (taken : Bool) (target : Word) (n : Nat) :
    (s.branch taken target n).Inv := by
  cases taken
  · exact hs.congr (s.advance_mem n) (s.advance_stack n)
  · exact hs.congr (s.setPC_mem target) (s.setPC_stack target)

theorem State.Inv.resetAll {s : State} (hs : s.Inv) : s.resetAll.Inv := by
  obtain ⟨hmem, -⟩ := hs
  refine ⟨?_, rfl⟩
  rw [s.resetAll_mem]
  split
  · rfl
  · exact hmem

theorem State.Inv.drawExternal {s : State} (hs : s.Inv) : s.drawExternal.Inv := by
  obtain ⟨m, hdraw, -, hwf⟩ := drawAt_spec s.params.externalWriteRegion s
  obtain ⟨hmem, hstack⟩ := hs
  rw [State.drawExternal, hdraw]
  exact ⟨hwf hmem, hstack⟩

/-! ## The instructions -/

/-- The named cases write a location, a stack cell or all of the state, or choose their update by a flag or an
operand form; the others touch neither array. -/
theorem exec_next_inv (i : Instr) {s : State} (hs : s.Inv) : ∃ t, exec i s = .next t ∧ t.Inv := by
  cases i with
  | reset => exact ⟨_, rfl, hs.resetAll⟩
  | jz target | jnz target | js target | jns target | jc target | jnc target | jext _ _ target =>
    exact ⟨_, rfl, hs.branch _ target _⟩
  | call target => exact ⟨_, rfl, (hs.push _).push _⟩
  | enter n => exact ⟨_, rfl, hs.push s.bp⟩
  | push o =>
    exact ⟨_, rfl, (hs.push _).congr ((s.push _).pushFlags_mem o _) ((s.push _).pushFlags_stack o _)⟩
  | pop o => exact ⟨_, rfl, hs.congr (s.pop.2.popInto_mem o _) (s.pop.2.popInto_stack o _)⟩
  | store o | xch o | inc o | dec o | neg o | not o => exact ⟨_, rfl, hs.writeLoc o _⟩
  | _ => exact ⟨_, rfl, hs⟩

/-- Settles O43: the external draws keep the form, and the instruction then keeps it. -/
theorem stepKeepsTheCanonicalForm : Obligations.StepKeepsTheCanonicalForm := by
  unfold Obligations.StepKeepsTheCanonicalForm
  intro s t hs hstep
  obtain ⟨t', hexec, hinv⟩ := exec_next_inv s.drawExternal.fetch hs.drawExternal
  cases hexec.symm.trans hstep
  exact hinv

/-- Settles O44: both arrays are empty after INIT, and the reset state is the one after INIT. -/
theorem resetHasTheCanonicalForm : Obligations.ResetHasTheCanonicalForm := by
  unfold Obligations.ResetHasTheCanonicalForm
  exact ⟨initial_inv Params.default 0, fun s => initial_inv s.params s.draws⟩

end Sys2Proof.Machine
end

section
/-! PROOFS. Scope (spec file 10): the flags each instruction may write.

Most instructions write no flag, or Z and S together; the sums and differences, INC and DEC write C as well,
and EI, DI, ET and DT write one flag alone. RESET and POP FLAGS may write all eight. -/

namespace Sys2Proof.Machine

/-! ## Updates that write no flag -/

theorem State.flag_branch (s : State) (taken : Bool) (target : Word) (n : Nat) (q : Flag) :
    (s.branch taken target n).flag q = s.flag q := by
  cases taken <;> rfl

theorem State.flag_writeLoc (s : State) (o : Loc8) (v : Byte) (q : Flag) :
    (s.writeLoc o v).flag q = s.flag q :=
  State.flag_congr (s.writeLoc_f o v) q

theorem State.flag_setReg (s : State) (r : Reg8) (v : Byte) (q : Flag) :
    (s.setReg r v).flag q = s.flag q :=
  State.flag_congr (s.setReg_f r v) q

/-! ## The table of writers -/

theorem ne_of_mayWrite {i : Instr} {p q : Flag} (hq : mayWrite i q = false) (hp : mayWrite i p = true) :
    q ≠ p := by
  rintro rfl
  cases hp.symm.trans hq

/-- Writing a flag that an instruction may write leaves one that it may not write alone. -/
theorem flag_setFlag_of_mayWrite (s : State) {i : Instr} {p q : Flag} (v : Bool)
    (hq : mayWrite i q = false) (hp : mayWrite i p = true) : (s.setFlag p v).flag q = s.flag q := by
  rw [State.flag_setFlag, if_neg (ne_of_mayWrite hq hp)]

/-- The same for Z and S together, on the F of `setZS8_f` and `setZS16_f`. -/
theorem flagOf_putZS_of_mayWrite (f : Byte) {i : Instr} {q : Flag} (z n : Bool) (hq : mayWrite i q = false)
    (hz : mayWrite i .z = true) (hs : mayWrite i .s = true) :
    flagOf (putFlag (putFlag f .z z) .s n) q = flagOf f q := by
  rw [flagOf_putFlag, if_neg (ne_of_mayWrite hq hs), flagOf_putFlag, if_neg (ne_of_mayWrite hq hz)]

theorem mayWrite_reset (q : Flag) : mayWrite .reset q = true := by cases q <;> rfl

theorem mayWrite_pop_flags (q : Flag) : mayWrite (.pop .flags) q = true := by cases q <;> rfl

/-! ## The instructions -/

theorem push_pushFlags_flag (s : State) (o : PushSrc) (v : Byte) {q : Flag}
    (h : mayWrite (.push o) q = false) : ((s.push v).pushFlags o v).flag q = s.flag q := by
  cases o with
  | flags => rfl
  | reg _ | bp | imm _ => exact flagOf_putZS_of_mayWrite s.f _ _ h rfl rfl

theorem popInto_flag (s : State) (o : PopDst) (v : Byte) {q : Flag}
    (h : mayWrite (.pop o) q = false) : (s.popInto o v).flag q = s.flag q := by
  cases o with
  | flags => cases (mayWrite_pop_flags q).symm.trans h
  | bp => exact flagOf_putZS_of_mayWrite s.f _ _ h rfl rfl
  | reg r => exact (flagOf_putZS_of_mayWrite _ _ _ h rfl rfl).trans (s.flag_setReg r v q)

/-- Settles O46: each group of instructions writes the flags of its row and no other; the last case writes
none. -/
theorem onlyListedInstructionsWriteAFlag : Obligations.OnlyListedInstructionsWriteAFlag := by
  unfold Obligations.OnlyListedInstructionsWriteAFlag
  intro i q s h
  cases i with
  | reset => cases (mayWrite_reset q).symm.trans h
  | ei | di | et | dt => exact ⟨_, rfl, flag_setFlag_of_mayWrite s _ h rfl⟩
  | jz target | jnz target | js target | jns target | jc target | jnc target | jext _ _ target =>
    exact ⟨_, rfl, s.flag_branch _ target _ q⟩
  | push o => exact ⟨_, rfl, push_pushFlags_flag s o _ h⟩
  | pop o => exact ⟨_, rfl, popInto_flag s.pop.2 o _ h⟩
  | load _ | clra | and _ | or _ | xor _ | cmp _ | min _ | max _ | shl _ | shr _ | rol _ | ror _
  | negHL | notHL | addw _ | subw _ | mulw _ | divw _ =>
    exact ⟨_, rfl, flagOf_putZS_of_mayWrite s.f _ _ h rfl rfl⟩
  | store o | xch o | neg o | not o =>
    exact ⟨_, rfl, (flagOf_putZS_of_mayWrite _ _ _ h rfl rfl).trans (s.flag_writeLoc o _ q)⟩
  | add _ | adc _ | sub _ | sbc _ =>
    exact ⟨_, rfl, (flagOf_putZS_of_mayWrite _ _ _ h rfl rfl).trans (flag_setFlag_of_mayWrite s _ h rfl)⟩
  | incHL | decHL =>
    exact ⟨_, rfl, (flag_setFlag_of_mayWrite _ _ h rfl).trans (flagOf_putZS_of_mayWrite s.f _ _ h rfl rfl)⟩
  | inc o | dec o =>
    exact ⟨_, rfl, (flag_setFlag_of_mayWrite _ _ h rfl).trans
      ((flagOf_putZS_of_mayWrite _ _ _ h rfl rfl).trans (s.flag_writeLoc o _ q))⟩
  | _ => exact ⟨_, rfl, rfl⟩

end Sys2Proof.Machine
end

section
/-! PROOFS. Scope (spec file 10): the flags that change nothing of what is computed.

Two states that differ in F alone, and there in one inert flag, go to states that differ in F alone, and
there in at most that flag: no instruction reads the flag, and each writes the same bits of F in both. -/

namespace Sys2Proof.Machine

/-! ## Flags bytes that agree but in one flag -/

/-- The flags bytes `f` and `g` agree in every flag but `p`. -/
def AgreeBut (p : Flag) (f g : Byte) : Prop := ∀ q, q ≠ p → flagOf g q = flagOf f q

theorem agreeBut_putFlag_self (p : Flag) (f : Byte) (v : Bool) : AgreeBut p f (putFlag f p v) := by
  intro q hq
  rw [flagOf_putFlag, if_neg hq]

/-- Writing the same flag in both bytes, `p` or another, keeps the agreement. -/
theorem AgreeBut.putFlag {p : Flag} {f g : Byte} (h : AgreeBut p f g) (r : Flag) (v : Bool) :
    AgreeBut p (putFlag f r v) (putFlag g r v) := by
  intro q hq
  rw [flagOf_putFlag, flagOf_putFlag, h q hq]

theorem AgreeBut.putFlag_eq {p : Flag} {f g : Byte} (h : AgreeBut p f g) (v : Bool) :
    Machine.putFlag g p v = Machine.putFlag f p v := by
  refine flags_ext fun q => ?_
  rw [flagOf_putFlag, flagOf_putFlag]
  split
  · rfl
  · next hq => exact h q hq

/-- JEXT tests the low six bits of F, and T and the storage bit are above them. -/
theorem AgreeBut.jextTaken_eq {p : Flag} {f g : Byte} (h : AgreeBut p f g) (hp : p = .t ∨ p = .r7)
    (mode : JextMode) (mask : BitVec 6) : jextTaken mode mask g = jextTaken mode mask f := by
  have hne : ∀ q ∈ jextFlags, q ≠ p := by
    rcases hp with rfl | rfl <;> decide
  have hlow : g.extractLsb' 0 6 = f.extractLsb' 0 6 := by
    refine BitVec.eq_of_getLsbD_eq fun k hk => ?_
    obtain ⟨q, hq, rfl⟩ : ∃ q ∈ jextFlags, q.bit = k := by
      interval_cases k <;> decide
    have hbit : g.getLsbD q.bit = f.getLsbD q.bit := h q (hne q hq)
    simpa [hk] using hbit
  unfold jextTaken
  rw [hlow]

/-! ## States that agree but in one flag -/

/-- `t` is `s` with an F that agrees with that of `s` in every flag but `p`. -/
def SameButFlag (p : Flag) (s t : State) : Prop := ∃ g, AgreeBut p s.f g ∧ t = { s with f := g }

theorem sameButFlag_refl (p : Flag) (s : State) : SameButFlag p s s := ⟨s.f, fun _ _ => rfl, rfl⟩

theorem SameButFlag.setFlag_eq {p : Flag} {s t : State} (h : SameButFlag p s t) (v : Bool) :
    t.setFlag p v = s.setFlag p v := by
  obtain ⟨g, hg, rfl⟩ := h
  exact congrArg (fun f => { s with f := f }) (hg.putFlag_eq v)

section
variable {p : Flag} {s t : State} (h : SameButFlag p s t)
include h

theorem SameButFlag.flag_eq {q : Flag} (hq : q ≠ p) : t.flag q = s.flag q := by
  obtain ⟨g, hg, rfl⟩ := h
  exact hg q hq

theorem SameButFlag.setFlag (q : Flag) (v : Bool) : SameButFlag p (s.setFlag q v) (t.setFlag q v) := by
  obtain ⟨g, hg, rfl⟩ := h
  exact ⟨_, hg.putFlag q v, rfl⟩

theorem SameButFlag.setZS8 (v : Byte) : SameButFlag p (s.setZS8 v) (t.setZS8 v) :=
  (h.setFlag .z _).setFlag .s _

theorem SameButFlag.setZS16 (v : Word) : SameButFlag p (s.setZS16 v) (t.setZS16 v) :=
  (h.setFlag .z _).setFlag .s _

/-- An update that neither reads nor writes F keeps the agreement. -/
theorem SameButFlag.update (u : State → State)
    (hu : ∀ (s : State) (f : Byte), u { s with f := f } = { u s with f := f }) : SameButFlag p (u s) (u t) := by
  obtain ⟨g, hg, rfl⟩ := h
  have hu_self : u s = { u s with f := s.f } := hu s s.f
  have hf : (u s).f = s.f := congrArg (·.f) hu_self
  exact ⟨g, by rwa [hf], hu s g⟩

theorem SameButFlag.setA (v : Byte) : SameButFlag p (s.setA v) (t.setA v) :=
  h.update (·.setA v) fun _ _ => rfl

theorem SameButFlag.setHL (v : Word) : SameButFlag p (s.setHL v) (t.setHL v) :=
  h.update (·.setHL v) fun _ _ => rfl

theorem SameButFlag.advance (n : Nat) : SameButFlag p (s.advance n) (t.advance n) :=
  h.update (·.advance n) fun _ _ => rfl

theorem SameButFlag.branch (taken : Bool) (target : Word) (n : Nat) :
    SameButFlag p (s.branch taken target n) (t.branch taken target n) :=
  h.update (·.branch taken target n) fun _ _ => by cases taken <;> rfl

theorem SameButFlag.push (v : Byte) : SameButFlag p (s.push v) (t.push v) :=
  h.update (·.push v) fun _ _ => rfl

theorem SameButFlag.pop : SameButFlag p s.pop.2 t.pop.2 :=
  h.update (·.pop.2) fun _ _ => rfl

theorem SameButFlag.setReg (r : Reg8) (v : Byte) : SameButFlag p (s.setReg r v) (t.setReg r v) :=
  h.update (·.setReg r v) fun _ _ => by cases r <;> rfl

theorem SameButFlag.writeLoc (o : Loc8) (v : Byte) : SameButFlag p (s.writeLoc o v) (t.writeLoc o v) := by
  cases o with
  | reg r => exact h.setReg r v
  | abs _ | hlInd | lInd | frame _ => exact h.update (State.writeLoc · _ v) fun _ _ => rfl

theorem SameButFlag.pushFlags (o : PushSrc) (v : Byte) :
    SameButFlag p (s.pushFlags o v) (t.pushFlags o v) := by
  cases o with
  | flags => exact h
  | reg _ | bp | imm _ => exact h.setZS8 v

theorem SameButFlag.popInto (o : PopDst) (v : Byte) : SameButFlag p (s.popInto o v) (t.popInto o v) := by
  cases o with
  | reg r => exact (h.setReg r v).setZS8 v
  | bp => exact (h.update ({ · with bp := v }) fun _ _ => rfl).setZS8 v
  | flags =>
    obtain ⟨g, -, rfl⟩ := h
    exact ⟨v, fun _ _ => rfl, rfl⟩

/-- Only PUSH FLAGS moves a value that depends on F. -/
theorem SameButFlag.pushValue_eq {o : PushSrc} (ho : Instr.push o ≠ .push .flags) :
    t.pushValue o = s.pushValue o := by
  obtain ⟨g, -, rfl⟩ := h
  cases o with
  | flags => exact absurd rfl ho
  | reg r => cases r <;> rfl
  | bp | imm _ => rfl

end

/-! ## The instructions -/

/-- Both outcomes are next states, which agree but in the flag `p`. -/
def OutcomesSameButFlag (p : Flag) (r r' : Result) : Prop :=
  ∃ t u, r = .next t ∧ r' = .next u ∧ SameButFlag p t u

theorem outcomesSameButFlag_branch {p : Flag} {s t : State} (h : SameButFlag p s t) {b b' : Bool}
    (hb : b' = b) (target : Word) (n : Nat) :
    OutcomesSameButFlag p (.next (s.branch b target n)) (.next (t.branch b' target n)) := by
  subst hb
  exact ⟨_, _, rfl, rfl, h.branch b' target n⟩

/-- No instruction but PUSH FLAGS, and JEXT for the flags it tests, reads a flag other than C, Z and S. -/
theorem exec_sameButFlag (i : Instr) {p : Flag} {s : State} {g : Byte} (hg : AgreeBut p s.f g)
    (hc : .c ≠ p) (hz : .z ≠ p) (hs : .s ≠ p) (hpush : i ≠ .push .flags)
    (hjext : ∀ mode mask x, i = .jext mode mask x → p = .t ∨ p = .r7) :
    OutcomesSameButFlag p (exec i s) (exec i { s with f := g }) := by
  have h : SameButFlag p s { s with f := g } := ⟨g, hg, rfl⟩
  cases i with
  | reset => exact ⟨_, _, rfl, rfl, sameButFlag_refl p s.resetAll⟩
  | jz target => exact outcomesSameButFlag_branch h (h.flag_eq hz) target _
  | jnz target => exact outcomesSameButFlag_branch h (congrArg (!·) (h.flag_eq hz)) target _
  | js target => exact outcomesSameButFlag_branch h (h.flag_eq hs) target _
  | jns target => exact outcomesSameButFlag_branch h (congrArg (!·) (h.flag_eq hs)) target _
  | jc target => exact outcomesSameButFlag_branch h (h.flag_eq hc) target _
  | jnc target => exact outcomesSameButFlag_branch h (congrArg (!·) (h.flag_eq hc)) target _
  | jext mode mask target =>
    exact outcomesSameButFlag_branch h (hg.jextTaken_eq (hjext mode mask target rfl) mode mask) target _
  | ei | di | et | dt => exact ⟨_, _, rfl, rfl, (h.setFlag _ _).advance _⟩
  | push o =>
    simp only [exec, execPush, h.pushValue_eq hpush]
    exact ⟨_, _, rfl, rfl, ((h.push _).pushFlags o _).advance _⟩
  | pop o => exact ⟨_, _, rfl, rfl, (h.pop.popInto o _).advance _⟩
  | store o | neg o | not o => exact ⟨_, _, rfl, rfl, ((h.writeLoc o _).setZS8 _).advance _⟩
  | xch o => exact ⟨_, _, rfl, rfl, (((h.writeLoc o _).setA _).setZS8 _).advance _⟩
  | inc o | dec o =>
    exact ⟨_, _, rfl, rfl, (((h.writeLoc o _).setZS8 _).setFlag .c _).advance _⟩
  | adc o | sbc o =>
    simp only [exec, execAdc, execSbc, h.flag_eq hc]
    exact ⟨_, _, rfl, rfl, (((h.setFlag .c _).setA _).setZS8 _).advance _⟩
  | add _ | sub _ => exact ⟨_, _, rfl, rfl, (((h.setFlag .c _).setA _).setZS8 _).advance _⟩
  | clra => exact ⟨_, _, rfl, rfl, (((h.setA 0).setFlag .z true).setFlag .s false).advance _⟩
  | load _ | and _ | or _ | xor _ | min _ | max _ | shl _ | shr _ | rol _ | ror _ =>
    exact ⟨_, _, rfl, rfl, ((h.setA _).setZS8 _).advance _⟩
  | cmp _ => exact ⟨_, _, rfl, rfl, (h.setZS8 _).advance _⟩
  | incHL | decHL => exact ⟨_, _, rfl, rfl, (((h.setHL _).setZS16 _).setFlag .c _).advance _⟩
  | negHL | notHL => exact ⟨_, _, rfl, rfl, ((h.setHL _).setZS16 _).advance _⟩
  | addw _ | subw _ | mulw _ | divw _ => exact ⟨_, _, rfl, rfl, ((h.setHL _).setZS8 _).advance _⟩
  | _ => exact ⟨_, _, rfl, rfl, g, hg, rfl⟩

theorem ne_of_mem_inert {p : Flag} (hp : p ∈ [Flag.o, .ac, .i, .t, .r7]) : .c ≠ p ∧ .z ≠ p ∧ .s ≠ p := by
  revert p
  decide

/-- Settles O48: the two states agree but in the flag, so the two outcomes do. -/
theorem inertFlagsDoNotChangeWhatIsComputed : Obligations.InertFlagsDoNotChangeWhatIsComputed := by
  unfold Obligations.InertFlagsDoNotChangeWhatIsComputed
  intro i p v s hp hpush hjext
  obtain ⟨hc, hz, hs⟩ := ne_of_mem_inert hp
  obtain ⟨t, u, ht, hu, h⟩ := exec_sameButFlag i (agreeBut_putFlag_self p s.f v) hc hz hs hpush hjext
  exact ⟨t, u, ht, hu, h.setFlag_eq false⟩

end Sys2Proof.Machine
end

section
/-! PROOFS. Scope (spec file 10): the values after INIT. -/

namespace Sys2Proof.Machine

theorem initial_reg (p : Params) (n : Nat) (r : Reg8) : (State.initial p n).reg r = 0 := by
  cases r <;> rfl

theorem initial_flag (p : Params) (n : Nat) (q : Flag) : (State.initial p n).flag q = false :=
  BitVec.getLsbD_zero

/-- Settles O36: `State.initial` has R50's values for all parameters, and the reset state is the one with the
defaults of R5. -/
theorem initialStateHasTheValuesOfTheResetTable : Obligations.InitialStateHasTheValuesOfTheResetTable := by
  unfold Obligations.InitialStateHasTheValuesOfTheResetTable
  refine ⟨fun s => ⟨rfl, initial_reg s.params s.draws, initial_flag s.params s.draws, rfl, rfl, fun _ => rfl,
    fun _ => rfl, rfl, rfl⟩, rfl, rfl, rfl, rfl, rfl, rfl, rfl, rfl⟩

end Sys2Proof.Machine
end

section
/-! PROOFS. Scope (spec file 20): the bytes of the external agent (R72).

The draws go through the region in order, one byte each. In a region without repeats no later draw reaches the
address of an earlier one, so every address ends with the byte of its own draw. -/

namespace Sys2Proof.Machine

theorem memRead_drawAt_of_notMem (s : State) {xs : List Word} {y : Word} (hy : y ∉ xs) :
    (s.drawAt xs).memRead y = s.memRead y := by
  obtain ⟨m, hdraw, hread, -⟩ := drawAt_spec xs s
  rw [hdraw]
  exact hread y hy

theorem memRead_drawAt_of_getElem? {xs : List Word} (hxs : xs.Nodup) (s : State) {k : Nat} {x : Word}
    (hx : xs[k]? = some x) : (s.drawAt xs).memRead x = Config.externalByte (s.draws + k) x := by
  induction xs generalizing s k with
  | nil => cases hx
  | cons y ys ih =>
    obtain ⟨hy, hys⟩ := List.nodup_cons.mp hxs
    rw [State.drawAt]
    cases k with
    | zero =>
      cases hx
      rw [memRead_drawAt_of_notMem _ hy]
      exact (memRead_memWrite s x x _).trans (if_pos rfl)
    | succ k => rw [ih hys _ hx, Nat.succ_add_eq_add_succ]

/-- Settles O42: the draws reach the addresses of the region alone, and change nothing but MEM and their own
count. -/
theorem externalWritesTouchOnlyTheirRegion : Obligations.ExternalWritesTouchOnlyTheirRegion := by
  unfold Obligations.ExternalWritesTouchOnlyTheirRegion
  intro s hnodup
  refine ⟨fun k x hx => memRead_drawAt_of_getElem? hnodup s hx, fun x hx => memRead_drawAt_of_notMem s hx, ?_⟩
  obtain ⟨m, hdraw, -, -⟩ := drawAt_spec s.params.externalWriteRegion s
  rw [State.drawExternal, hdraw]

end Sys2Proof.Machine
end

section
/-! PROOFS. Scope (spec file 20): where each instruction stores.

An instruction that stores writes a destination location, or pushes once or twice; MEM and STACK are two
arrays, so neither store reaches the other. The remaining instructions leave both arrays as they are. -/

namespace Sys2Proof.Machine

theorem memKeptBut_of_mem_eq {s t : State} (h : t.mem = s.mem) (x? : Option Word) : MemKeptBut x? s t :=
  fun x _ => memRead_congr h x

theorem stackKeptBut_of_stack_eq {s t : State} (h : t.stack = s.stack) (is : List Byte) :
    StackKeptBut is s t :=
  fun i _ => stackRead_congr h i

theorem StackKeptBut.trans {is js : List Byte} {s t u : State} (hst : StackKeptBut is s t)
    (htu : StackKeptBut js t u) : StackKeptBut (is ++ js) s u := by
  intro i hi
  rw [List.mem_append, not_or] at hi
  obtain ⟨his, hjs⟩ := hi
  exact (htu i hjs).trans (hst i his)

theorem branch_mem (s : State) (taken : Bool) (target : Word) (n : Nat) :
    (s.branch taken target n).mem = s.mem := by
  cases taken <;> rfl

theorem branch_stack (s : State) (taken : Bool) (target : Word) (n : Nat) :
    (s.branch taken target n).stack = s.stack := by
  cases taken <;> rfl

/-- Settles O47: the stores are those of a destination and of a push; CALL's second push is one cell higher. -/
theorem instructionsStoreOnlyWhereTheyName : Obligations.InstructionsStoreOnlyWhereTheyName := by
  unfold Obligations.InstructionsStoreOnlyWhereTheyName
  intro i s hreset
  cases i with
  | reset => exact absurd rfl hreset
  | store o | xch o | inc o | dec o | neg o | not o =>
    exact ⟨_, rfl, memKeptBut_writeLoc s o _, stackKeptBut_writeLoc s o _⟩
  | push o =>
    exact ⟨_, rfl, memKeptBut_of_mem_eq ((s.push _).pushFlags_mem o _) none,
      (stackKeptBut_push s _).trans (stackKeptBut_of_stack_eq ((s.push _).pushFlags_stack o _) [])⟩
  | enter n => exact ⟨_, rfl, memKeptBut_of_mem_eq (s.push_mem s.bp) none, stackKeptBut_push s s.bp⟩
  | call target =>
    exact ⟨_, rfl, fun _ _ => rfl, (stackKeptBut_push s _).trans (stackKeptBut_push (s.push _) _)⟩
  | pop o =>
    exact ⟨_, rfl, memKeptBut_of_mem_eq (s.pop.2.popInto_mem o _) none,
      stackKeptBut_of_stack_eq (s.pop.2.popInto_stack o _) []⟩
  | jz target | jnz target | js target | jns target | jc target | jnc target | jext _ _ target =>
    exact ⟨_, rfl, memKeptBut_of_mem_eq (branch_mem s _ target _) none,
      stackKeptBut_of_stack_eq (branch_stack s _ target _) []⟩
  | _ => exact ⟨_, rfl, memKeptBut_of_mem_eq rfl none, stackKeptBut_of_stack_eq rfl []⟩

end Sys2Proof.Machine
end

section
/-! PROOFS. Scope (spec file 30): decoding what the encoder writes (R91 to R96).

An encoding is an opcode byte and its operand bytes. The opcode alone fixes the length, the instruction and
its operand form, and the decoder takes the operand's value from the operand bytes; whatever follows them stays
unread. -/

namespace Sys2Proof.Machine

/-- The decoder reads `i` from these bytes, and leaves what follows them. -/
def DecodesTo (bytes : List Byte) (i : Instr) : Prop :=
  ∀ rest : List Byte, decodeBytes (bytes ++ rest) = .ok (i, rest)

/-! ## The formats F1 to F4 (R91) -/

section
variable {op : Byte} {i : Instr}

theorem decodesTo_f1 (hlen : opLength op = 1) (hdec : ∀ b1 b2 b3, decode op b1 b2 b3 = i) :
    DecodesTo [op] i := by
  intro rest
  simp [decodeBytes, hlen, hdec]

theorem decodesTo_f2 {v : Byte} (hlen : opLength op = 2) (hdec : ∀ b2 b3, decode op v b2 b3 = i) :
    DecodesTo [op, v] i := by
  intro rest
  simp [decodeBytes, hlen, hdec]

theorem decodesTo_f3 (mk : Word → Instr) (w : Word) (hlen : opLength op = 3)
    (hdec : ∀ b1 b2 b3, decode op b1 b2 b3 = mk (joinBytes b1 b2)) : DecodesTo (encodeF3 op w) (mk w) := by
  intro rest
  simp [decodeBytes, encodeF3, hlen, hdec]

theorem decodesTo_f4 {m : Byte} {mk : Word → Instr} (w : Word) (hlen : opLength op = 4)
    (hdec : ∀ b2 b3, decode op m b2 b3 = mk (joinBytes b2 b3)) :
    DecodesTo [op, m, hiByte w, loByte w] (mk w) := by
  intro rest
  simp [decodeBytes, hlen, hdec]

end

/-! ## JEXT's m8 byte (R267): the mode in bits 7:6, the mask below -/

theorem jextMode_code_append (mode : JextMode) (mask : BitVec 6) : jextMode (mode.code ++ mask) = mode := by
  have hmode : (mode.code ++ mask).toNat / 64 = mode.code.toNat := by
    rw [BitVec.toNat_append, ← Nat.shiftLeft_add_eq_or_of_lt mask.isLt, Nat.shiftLeft_eq]
    omega
  unfold jextMode
  rw [hmode]
  cases mode <;> rfl

theorem decode_jext (mode : JextMode) (mask : BitVec 6) (b2 b3 : Byte) :
    decode 0x0F (mode.code ++ mask) b2 b3 = .jext mode mask (joinBytes b2 b3) := by
  have hmask : (mode.code ++ mask).extractLsb' 0 6 = mask := BitVec.extractLsb'_append_eq_right
  calc decode 0x0F (mode.code ++ mask) b2 b3
      = .jext (jextMode (mode.code ++ mask)) ((mode.code ++ mask).extractLsb' 0 6) (joinBytes b2 b3) := rfl
    _ = .jext mode mask (joinBytes b2 b3) := by rw [jextMode_code_append, hmask]

/-! ## The unassigned opcodes (R98) -/

theorem decodesTo_unassigned {op : Byte} (hop : op ∈ unassignedOpcodes) :
    DecodesTo [op] (.unassigned op) := by
  have hlen : ∀ op ∈ unassignedOpcodes, opLength op = 1 := by decide
  have hdec : ∀ op ∈ unassignedOpcodes, ∀ b1 b2 b3, decode op b1 b2 b3 = .unassigned op := by
    intro op hop b1 b2 b3
    fin_cases hop <;> rfl
  exact decodesTo_f1 (hlen op hop) (hdec op hop)

/-! ## The instructions -/

/-- Each operand form selects a format and an opcode; what its family does not encode is not well-formed. -/
theorem decodesTo_encode (i : Instr) (h : i.wf = true) : DecodesTo (encode i) i := by
  cases i with
  | unassigned op => exact decodesTo_unassigned (List.contains_iff_mem.mp h)
  | jmp t | jz t | jnz t | js t | jns t | jc t | jnc t | call t | ldhlI16 t | addhlI16 t =>
    exact decodesTo_f3 _ t rfl fun _ _ _ => rfl
  | jext mode mask t => exact decodesTo_f4 t rfl (decode_jext mode mask)
  | retI _ | enter _ | addlI8 _ => exact decodesTo_f2 rfl fun _ _ => rfl
  | push o =>
    cases o with
    | reg r => cases r <;> exact decodesTo_f1 rfl fun _ _ _ => rfl
    | bp | flags => exact decodesTo_f1 rfl fun _ _ _ => rfl
    | imm _ => exact decodesTo_f2 rfl fun _ _ => rfl
  | pop o =>
    cases o with
    | reg r => cases r <;> exact decodesTo_f1 rfl fun _ _ _ => rfl
    | bp | flags => exact decodesTo_f1 rfl fun _ _ _ => rfl
  | load o =>
    cases o with
    | reg r =>
      cases r with
      | a => cases h
      | _ => exact decodesTo_f1 rfl fun _ _ _ => rfl
    | abs x => exact decodesTo_f3 (fun x => .load (.abs x)) x rfl fun _ _ _ => rfl
    | hlInd | lInd => exact decodesTo_f1 rfl fun _ _ _ => rfl
    | imm _ | frame _ => exact decodesTo_f2 rfl fun _ _ => rfl
  | store o =>
    cases o with
    | reg r =>
      cases r with
      | a => cases h
      | _ => exact decodesTo_f1 rfl fun _ _ _ => rfl
    | abs x => exact decodesTo_f3 (fun x => .store (.abs x)) x rfl fun _ _ _ => rfl
    | hlInd | lInd => exact decodesTo_f1 rfl fun _ _ _ => rfl
    | frame _ => cases h
  | xch o =>
    cases o with
    | reg r =>
      cases r with
      | a => cases h
      | _ => exact decodesTo_f1 rfl fun _ _ _ => rfl
    | abs x => exact decodesTo_f3 (fun x => .xch (.abs x)) x rfl fun _ _ _ => rfl
    | hlInd | lInd => exact decodesTo_f1 rfl fun _ _ _ => rfl
    | frame _ => exact decodesTo_f2 rfl fun _ _ => rfl
  | add o | adc o | sub o | sbc o | and o | or o | xor o | cmp o | min o | max o =>
    cases o with
    | reg r => cases r <;> exact decodesTo_f1 rfl fun _ _ _ => rfl
    | abs _ => cases h
    | hlInd | lInd => exact decodesTo_f1 rfl fun _ _ _ => rfl
    | imm _ | frame _ => exact decodesTo_f2 rfl fun _ _ => rfl
  | shl o | shr o | rol o | ror o =>
    cases o with
    | reg r =>
      cases r with
      | a => cases h
      | _ => exact decodesTo_f1 rfl fun _ _ _ => rfl
    | abs _ => cases h
    | hlInd | lInd => exact decodesTo_f1 rfl fun _ _ _ => rfl
    | imm _ | frame _ => exact decodesTo_f2 rfl fun _ _ => rfl
  | inc o | dec o | neg o | not o =>
    cases o with
    | reg r => cases r <;> exact decodesTo_f1 rfl fun _ _ _ => rfl
    | abs _ => cases h
    | hlInd | lInd => exact decodesTo_f1 rfl fun _ _ _ => rfl
    | frame _ => exact decodesTo_f2 rfl fun _ _ => rfl
  | addw o | subw o | mulw o | divw o =>
    cases o with
    | reg r =>
      cases r with
      | h | l => cases h
      | _ => exact decodesTo_f1 rfl fun _ _ _ => rfl
    | imm _ => exact decodesTo_f2 rfl fun _ _ => rfl
    | _ => cases h
  | _ => exact decodesTo_f1 rfl fun _ _ _ => rfl

/-- Settles O50: every well-formed instruction is read back from its encoding, whatever follows. -/
theorem decodeOfEncodeIsTheInstruction : Obligations.DecodeOfEncodeIsTheInstruction := by
  unfold Obligations.DecodeOfEncodeIsTheInstruction
  intro i rest h
  exact decodesTo_encode i h rest

end Sys2Proof.Machine
end

section
/-! PROOFS. Scope (spec file 30): encoding what the decoder reads (R97, R99).

The decoder splits an opcode byte into its row and its selector, and each function of the opcode map reads one
family of rows. With row and selector given, the opcode is a numeral, and the decoded instruction has a form of
the spec whose encoding is that opcode and the operand bytes its length counts. -/

namespace Sys2Proof.Machine

/-! ## Lengths -/

/-- The per-instruction laws as one. -/
theorem length_encode {i : Instr} (h : i.wf = true) : (encode i).length = i.length := by
  cases i with
  | push o => exact Laws.EncodeLength.push o h
  | pop o => exact Laws.EncodeLength.pop o h
  | load o => exact Laws.EncodeLength.load o h
  | store o => exact Laws.EncodeLength.store o h
  | xch o => exact Laws.EncodeLength.xch o h
  | add o => exact Laws.EncodeLength.add o h
  | adc o => exact Laws.EncodeLength.adc o h
  | sub o => exact Laws.EncodeLength.sub o h
  | sbc o => exact Laws.EncodeLength.sbc o h
  | and o => exact Laws.EncodeLength.and o h
  | or o => exact Laws.EncodeLength.or o h
  | xor o => exact Laws.EncodeLength.xor o h
  | cmp o => exact Laws.EncodeLength.cmp o h
  | min o => exact Laws.EncodeLength.min o h
  | max o => exact Laws.EncodeLength.max o h
  | shl o => exact Laws.EncodeLength.shl o h
  | shr o => exact Laws.EncodeLength.shr o h
  | rol o => exact Laws.EncodeLength.rol o h
  | ror o => exact Laws.EncodeLength.ror o h
  | inc o => exact Laws.EncodeLength.inc o h
  | dec o => exact Laws.EncodeLength.dec o h
  | neg o => exact Laws.EncodeLength.neg o h
  | not o => exact Laws.EncodeLength.not o h
  | addw o => exact Laws.EncodeLength.addw o h
  | subw o => exact Laws.EncodeLength.subw o h
  | mulw o => exact Laws.EncodeLength.mulw o h
  | divw o => exact Laws.EncodeLength.divw o h
  | _ => rfl

/-! ## Rows and selectors (R92) -/

/-- `i` is well-formed and its bytes are `op` and as many of the three bytes after it as R97 gives `op`. -/
def EncodesTo (op b1 b2 b3 : Byte) (i : Instr) : Prop :=
  i.wf = true ∧ encode i = [op, b1, b2, b3].take (opLength op)

section
variable {op : Byte} (b1 b2 b3 : Byte) {row : Nat}

theorem opcode_eq_of_row (hrow : op.toNat / 8 = row) :
    op = BitVec.ofNat 8 (8 * row) + BitVec.ofNat 8 (op.toNat % 8) := by
  rw [← hrow, ← BitVec.ofNat_add, Nat.div_add_mod, BitVec.ofNat_toNat, BitVec.setWidth_eq]

/-- A row holds at all its opcodes what it holds at its eight selectors. -/
theorem encodesTo_of_row (r : Byte → Nat → Instr) (hrow : op.toNat / 8 = row)
    (h : ∀ sel < 8,
      EncodesTo (BitVec.ofNat 8 (8 * row + sel)) b1 b2 b3 (r (BitVec.ofNat 8 (8 * row + sel)) sel)) :
    EncodesTo op b1 b2 b3 (r op (op.toNat % 8)) := by
  have hop : BitVec.ofNat 8 (8 * row + op.toNat % 8) = op := by
    rw [BitVec.ofNat_add, ← opcode_eq_of_row hrow]
  have hsel := h (op.toNat % 8) (Nat.mod_lt _ (by decide))
  rwa [hop] at hsel

/-! ## The rows whose opcodes share no selector column -/

theorem encodesTo_systemRow (hrow : op.toNat / 8 = 0) :
    EncodesTo op b1 b2 b3 (systemRow op (op.toNat % 8)) := by
  refine encodesTo_of_row b1 b2 b3 systemRow hrow fun sel hsel => ?_
  interval_cases sel <;> exact ⟨rfl, rfl⟩

theorem encodeF3_joinBytes (op hi lo : Byte) : encodeF3 op (joinBytes hi lo) = [op, hi, lo] := by
  simp [encodeF3]

theorem code_jextMode_append (m : Byte) : (jextMode m).code ++ m.extractLsb' 0 6 = m := by
  revert m
  decide

theorem encodesTo_jumpRow (hrow : op.toNat / 8 = 1) :
    EncodesTo op b1 b2 b3 (jumpRow (op.toNat % 8) b1 b2 b3) := by
  refine encodesTo_of_row b1 b2 b3 (fun _ sel => jumpRow sel b1 b2 b3) hrow fun sel hsel => ?_
  have hjext : encode (jumpRow 7 b1 b2 b3) = [0x0F, b1, b2, b3] := by
    simp [jumpRow, encode, code_jextMode_append]
  interval_cases sel
  iterate 7 exact ⟨rfl, encodeF3_joinBytes _ b1 b2⟩
  exact ⟨rfl, hjext⟩

theorem encodesTo_callRow (hrow : op.toNat / 8 = 2) :
    EncodesTo op b1 b2 b3 (callRow (op.toNat % 8) b1 b2) := by
  refine encodesTo_of_row b1 b2 b3 (fun _ sel => callRow sel b1 b2) hrow fun sel hsel => ?_
  interval_cases sel
  · exact ⟨rfl, encodeF3_joinBytes _ b1 b2⟩
  iterate 4 exact ⟨rfl, rfl⟩
  iterate 2 exact ⟨rfl, encodeF3_joinBytes _ b1 b2⟩
  exact ⟨rfl, rfl⟩

theorem encodesTo_pushRow (hrow : op.toNat / 8 = 3) :
    EncodesTo op b1 b2 b3 (pushRow (op.toNat % 8) b1) := by
  refine encodesTo_of_row b1 b2 b3 (fun _ sel => pushRow sel b1) hrow fun sel hsel => ?_
  interval_cases sel <;> exact ⟨rfl, rfl⟩

theorem encodesTo_popRow (hrow : op.toNat / 8 = 4) :
    EncodesTo op b1 b2 b3 (popRow op (op.toNat % 8)) := by
  refine encodesTo_of_row b1 b2 b3 popRow hrow fun sel hsel => ?_
  interval_cases sel <;> exact ⟨rfl, rfl⟩

theorem encodesTo_loadRow (hrow : op.toNat / 8 = 5) :
    EncodesTo op b1 b2 b3 (loadRow (op.toNat % 8) b1 b2) := by
  refine encodesTo_of_row b1 b2 b3 (fun _ sel => loadRow sel b1 b2) hrow fun sel hsel => ?_
  interval_cases sel
  · exact ⟨rfl, encodeF3_joinBytes _ b1 b2⟩
  all_goals exact ⟨rfl, rfl⟩

/-- The rows STORE and XCH. -/
theorem encodesTo_dataRow {mk : Loc8 → Instr} (hrow : op.toNat / 8 = row)
    (hmk : row = 6 ∧ mk = .store ∨ row = 7 ∧ mk = .xch) :
    EncodesTo op b1 b2 b3 (dataRow mk op (op.toNat % 8) (joinBytes b1 b2)) := by
  refine encodesTo_of_row b1 b2 b3 (fun op sel => dataRow mk op sel (joinBytes b1 b2)) hrow
    fun sel hsel => ?_
  rcases hmk with ⟨rfl, rfl⟩ | ⟨rfl, rfl⟩
  all_goals
    interval_cases sel
    · exact ⟨rfl, encodeF3_joinBytes _ b1 b2⟩
    all_goals exact ⟨rfl, rfl⟩

/-- The rows from 0xD0: `k` is `opcode - 0xD0`. -/
theorem encodesTo_frameRow {k : Nat} (hk : k < 24) (hop : op = BitVec.ofNat 8 (0xD0 + k)) :
    EncodesTo op b1 b2 b3 (frameRow op k b1) := by
  subst hop
  interval_cases k <;> exact ⟨rfl, rfl⟩

/-- The rows from 0xE8: `opcode - 0xE8` is `4 * j + s`. -/
theorem encodesTo_wideRow {j s : Nat} (hj : j < 4) (hs : s < 4)
    (hop : op = BitVec.ofNat 8 (0xE8 + 4 * j + s)) :
    EncodesTo op b1 b2 b3 (wideRow j s b1) := by
  subst hop
  interval_cases j <;> interval_cases s <;> exact ⟨rfl, rfl⟩

/-- The last row. -/
theorem encodesTo_unassigned (hop : 0xF8 ≤ op.toNat) : EncodesTo op b1 b2 b3 (.unassigned op) := by
  have hlast : ∀ op : Byte, 0xF8 ≤ op.toNat → (Instr.unassigned op).wf = true ∧ opLength op = 1 := by decide
  obtain ⟨hwf, hlen⟩ := hlast op hop
  exact ⟨hwf, by rw [hlen]; rfl⟩

/-! ## The rows with the ALU's and the unary selector columns -/

theorem opLength_aluRow : ∀ row < 22, 8 ≤ row → ∀ sel < 8,
    opLength (BitVec.ofNat 8 (8 * row + sel)) = if sel = 5 then 2 else 1 := by decide

theorem opLength_unaryRow : ∀ row < 26, 22 ≤ row → ∀ sel < 8,
    opLength (BitVec.ofNat 8 (8 * row + sel)) = 1 := by decide

theorem unassigned_wf_shiftRow : ∀ row < 22, 18 ≤ row →
    (Instr.unassigned (BitVec.ofNat 8 (8 * row + 0))).wf = true := by decide

section
variable {mk : Src8 → Instr} {frameOp : Byte}

theorem encodesTo_aluOperand {sel : Nat}
    (henc : ∀ o, encode (mk o) = encodeAlu (BitVec.ofNat 8 (8 * row)) frameOp o)
    (hwf : (mk (aluOperand sel b1)).wf = true) (hlo : 8 ≤ row) (hhi : row < 22) (hsel : sel < 8) :
    EncodesTo (BitVec.ofNat 8 (8 * row + sel)) b1 b2 b3 (mk (aluOperand sel b1)) := by
  refine ⟨hwf, ?_⟩
  rw [opLength_aluRow row hhi hlo sel hsel, BitVec.ofNat_add, henc]
  interval_cases sel <;> rfl

theorem okAlu_aluOperand (sel : Nat) : (aluOperand sel b1).okAlu = true := by
  unfold aluOperand
  split <;> rfl

/-- Only selector 0 names the accumulator. -/
theorem okShift_aluOperand {sel : Nat} (hpos : 0 < sel) (hsel : sel < 8) :
    (aluOperand sel b1).okShift = true := by
  interval_cases sel <;> rfl

/-- The rows ADD to MAX. -/
theorem encodesTo_aluRow (hrow : op.toNat / 8 = row)
    (henc : ∀ o, encode (mk o) = encodeAlu (BitVec.ofNat 8 (8 * row)) frameOp o)
    (hwf : ∀ o, (mk o).wf = o.okAlu) (hlo : 8 ≤ row) (hhi : row < 22) :
    EncodesTo op b1 b2 b3 (mk (aluOperand (op.toNat % 8) b1)) := by
  refine encodesTo_of_row b1 b2 b3 (fun _ sel => mk (aluOperand sel b1)) hrow fun sel hsel => ?_
  exact encodesTo_aluOperand b1 b2 b3 henc ((hwf _).trans (okAlu_aluOperand b1 sel)) hlo hhi hsel

/-- The rows SHL to ROR: selector 0 is unassigned. -/
theorem encodesTo_shiftRow (hrow : op.toNat / 8 = row)
    (henc : ∀ o, encode (mk o) = encodeAlu (BitVec.ofNat 8 (8 * row)) frameOp o)
    (hwf : ∀ o, (mk o).wf = o.okShift) (hlo : 18 ≤ row) (hhi : row < 22) :
    EncodesTo op b1 b2 b3 (shiftRow mk op (op.toNat % 8) b1) := by
  have hlo8 : 8 ≤ row := by omega
  refine encodesTo_of_row b1 b2 b3 (fun op sel => shiftRow mk op sel b1) hrow fun sel hsel => ?_
  cases sel with
  | zero =>
    have hlen := opLength_aluRow row hhi hlo8 0 hsel
    exact ⟨unassigned_wf_shiftRow row hhi hlo, by rw [hlen]; rfl⟩
  | succ n =>
    have hok := okShift_aluOperand b1 n.succ_pos hsel
    exact encodesTo_aluOperand b1 b2 b3 henc ((hwf _).trans hok) hlo8 hhi hsel

end

/-- The rows INC to NOT: selector 5 is the HL form. -/
theorem encodesTo_unaryRow {mk : Loc8 → Instr} {hlForm : Instr} {frameOp : Byte} (hrow : op.toNat / 8 = row)
    (henc : ∀ o, encode (mk o) = encodeUnary (BitVec.ofNat 8 (8 * row)) frameOp o)
    (hwf : ∀ o, (mk o).wf = o.okUnary) (hencHL : encode hlForm = [BitVec.ofNat 8 (8 * row) + 5])
    (hwfHL : hlForm.wf = true) (hlo : 22 ≤ row) (hhi : row < 26) :
    EncodesTo op b1 b2 b3 (unaryRow mk hlForm (op.toNat % 8)) := by
  refine encodesTo_of_row b1 b2 b3 (fun _ sel => unaryRow mk hlForm sel) hrow fun sel hsel => ?_
  unfold EncodesTo
  rw [opLength_unaryRow row hhi hlo sel hsel, BitVec.ofNat_add]
  interval_cases sel
  iterate 5 exact ⟨hwf _, henc _⟩
  · exact ⟨hwfHL, hencHL⟩
  all_goals exact ⟨hwf _, henc _⟩

/-! ## The opcode map (R96) -/

/-- The rows in the order of the decoder. -/
theorem encodesTo_decode (op : Byte) : EncodesTo op b1 b2 b3 (decode op b1 b2 b3) := by
  have hop : op = BitVec.ofNat 8 op.toNat := by simp
  have hlt : op.toNat < 256 := op.isLt
  unfold decode
  dsimp only
  split
  next hrow => exact encodesTo_systemRow b1 b2 b3 hrow
  next hrow => exact encodesTo_jumpRow b1 b2 b3 hrow
  next hrow => exact encodesTo_callRow b1 b2 b3 hrow
  next hrow => exact encodesTo_pushRow b1 b2 b3 hrow
  next hrow => exact encodesTo_popRow b1 b2 b3 hrow
  next hrow => exact encodesTo_loadRow b1 b2 b3 hrow
  next hrow => exact encodesTo_dataRow b1 b2 b3 hrow (.inl ⟨rfl, rfl⟩)
  next hrow => exact encodesTo_dataRow b1 b2 b3 hrow (.inr ⟨rfl, rfl⟩)
  iterate 10 next hrow =>
    exact encodesTo_aluRow b1 b2 b3 hrow (fun _ => rfl) (fun _ => rfl) (by decide) (by decide)
  iterate 4 next hrow =>
    exact encodesTo_shiftRow b1 b2 b3 hrow (fun _ => rfl) (fun _ => rfl) (by decide) (by decide)
  iterate 4 next hrow =>
    exact encodesTo_unaryRow b1 b2 b3 hrow (fun _ => rfl) (fun _ => rfl) rfl rfl (by decide) (by decide)
  iterate 3 next hrow =>
    exact encodesTo_frameRow b1 b2 b3 (by omega) (hop.trans (congrArg _ (by omega)))
  iterate 2 next hrow =>
    exact encodesTo_wideRow b1 b2 b3 (by omega) (by omega) (hop.trans (congrArg _ (by omega)))
  next =>
    simp only [imp_false] at *
    exact encodesTo_unassigned b1 b2 b3 (by omega)

end

theorem opLength_le (op : Byte) : opLength op ≤ 4 := by
  unfold opLength
  split_ifs <;> decide

/-- Settles O51: the decoded instruction's encoding has the length of the opcode, and so has the instruction. -/
theorem encodeOfDecodeIsTheBytes : Obligations.EncodeOfDecodeIsTheBytes := by
  unfold Obligations.EncodeOfDecodeIsTheBytes
  intro op b1 b2 b3
  obtain ⟨hwf, henc⟩ := encodesTo_decode b1 b2 b3 op
  have hlen : (decode op b1 b2 b3).length = opLength op := by
    rw [← length_encode hwf, henc, List.length_take]
    exact min_eq_left (opLength_le op)
  exact ⟨hwf, hlen, henc⟩

end Sys2Proof.Machine
end

section
/-! PROOFS. Scope (spec file 30): the words of the opcode map (R96) and the operand forms (R95). -/

namespace Sys2Proof.Machine

/-- Settles O52: the words are the encodings of their instructions, so the round trip reads them back. -/
theorem writtenOutWordsDecode : Obligations.WrittenOutWordsDecode := by
  unfold Obligations.WrittenOutWordsDecode
  exact ⟨decodesTo_encode (.load (.imm 0x05)) rfl [], decodesTo_encode (.store (.abs 0x020E)) rfl [],
    decodesTo_encode (.add (.frame 0xFD)) rfl [], decodesTo_encode .incHL rfl [],
    decodesTo_encode (.divw (.imm 0x07)) rfl [], decodesTo_encode (.jext .allSet 0x03 0x0200) rfl [],
    decodesTo_encode (.push .flags) rfl [], decodesTo_encode (.ror (.reg .b)) rfl [],
    decodesTo_encode (.unassigned 0xFF) rfl [0x45]⟩

/-! ## The places of the operand forms, as numbers -/

theorem hl_toNat (s : State) : s.hl.toNat = s.h.toNat * 256 + s.l.toNat := joinBytes_toNat s.h s.l

/-- The page of (L) is page 0 (D10). -/
theorem lAddr_toNat (s : State) : s.lAddr.toNat = s.l.toNat :=
  BitVec.toNat_setWidth_of_le (by decide)

/-- The frame byte counts from 1 (D9): 255 is `-1` modulo 256. -/
theorem frameIndex_toNat (s : State) (d : Byte) :
    (s.frameIndex d).toNat = (s.bp.toNat + d.toNat + 255) % 256 := by
  unfold State.frameIndex
  bv_omega

/-- A destination form names the same place as the source form it comes from. -/
theorem readLoc_eq_src8 (s : State) {o : Loc8} {o' : Src8} (h : toLoc o' = some o) : s.readLoc o = s.src8 o' := by
  cases o' with
  | imm v => cases h
  | _ => cases h; rfl

/-- Settles O49: each form reads its place. -/
theorem operandFormsReadTheirLocations : Obligations.OperandFormsReadTheirLocations := by
  unfold Obligations.OperandFormsReadTheirLocations
  intro s
  have hhl : s.src8 .hlInd = s.mem.read (s.h.toNat * 256 + s.l.toNat) := congrArg s.mem.read (hl_toNat s)
  have hlInd : s.src8 .lInd = s.mem.read s.l.toNat := congrArg s.mem.read (lAddr_toNat s)
  have hframe : ∀ d, s.src8 (.frame d) = s.stack.read ((s.bp.toNat + d.toNat + 255) % 256) :=
    fun d => congrArg s.stack.read (frameIndex_toNat s d)
  exact ⟨fun _ => rfl, fun _ => rfl, hhl, hlInd, hframe, ⟨rfl, rfl, rfl, rfl, rfl⟩,
    ⟨rfl, rfl, fun _ => rfl, fun _ => rfl⟩, fun _ _ => readLoc_eq_src8 s⟩

end Sys2Proof.Machine
end

section
/-! PROOFS. Scope (spec file 30, section 4): what the code of an operand with an offset does (R125, R126).

The synthetic instruction before the access moves HL or L, and the (HL) and (L) forms then name the place where
the pointer has moved to. The frame form needs no such instruction: its byte is the offset plus one. -/

namespace Sys2Proof.Machine

/-! ## What an operand expands to -/

theorem expand_absolute_direct (k : Word) (u : Option LabelUse) :
    expand true (.mem .absolute k u) = some ([], .abs k, u) := rfl

theorem expand_absolute_throughHL (k : Word) (u : Option LabelUse) :
    expand false (.mem .absolute k u) = some ([⟨.ldhlI16 k, u⟩], .hlInd, none) := rfl

theorem expand_hl_offset (direct : Bool) {k : Word} {u : Option LabelUse} (h : k ≠ 0 ∨ u ≠ none) :
    expand direct (.mem .hl k u) = some ([⟨.addhlI16 k, u⟩], .hlInd, none) :=
  if_neg (by rwa [not_and_or])

theorem expand_hl_zero (direct : Bool) : expand direct (.mem .hl 0 none) = some ([], .hlInd, none) := rfl

theorem expand_l_offset (direct : Bool) {k : Word} (h : k ≠ 0) :
    expand direct (.mem .l k none) = some ([⟨.addlI8 (loByte k), none⟩], .lInd, none) :=
  if_neg h

theorem expand_l_zero (direct : Bool) : expand direct (.mem .l 0 none) = some ([], .lInd, none) := rfl

theorem expand_frame (direct : Bool) (k : Word) :
    expand direct (.frame k) = some ([], .frame (loByte (k + 1)), none) := rfl

/-! ## Where the operand forms are after the synthetic instructions -/

/-- LDHL_I16 and ADDHL_I16 write HL and PC: the (HL) form is then at the new HL, in the MEM of before. -/
theorem hlInd_after_setHL (s : State) (w : Word) (n : Nat) :
    ((s.setHL w).advance n).hl = w ∧ ((s.setHL w).advance n).src8 .hlInd = s.memRead w ∧
      ((s.setHL w).advance n).readLoc .hlInd = s.memRead w ∧
      ((s.setHL w).advance n).locMemAddr .hlInd = some w := by
  have hhl : ((s.setHL w).advance n).hl = w := hl_setHL s w
  have hread : ((s.setHL w).advance n).memRead ((s.setHL w).advance n).hl = s.memRead w := by
    rw [hhl]; rfl
  exact ⟨hhl, hread, hread, congrArg some hhl⟩

theorem src8_lInd (s : State) : s.src8 .lInd = s.mem.read s.l.toNat := congrArg s.mem.read (lAddr_toNat s)

theorem addLoByte_toNat (b : Byte) (k : Word) : (b + loByte k).toNat = (b.toNat + k.toNat) % 256 := by
  rw [BitVec.toNat_add, loByte_toNat]
  omega

/-- The frame byte of the offset `k` names the cell at BP + k. -/
theorem frameIndex_offset_toNat (s : State) (k : Word) :
    (s.frameIndex (loByte (k + 1))).toNat = (s.bp.toNat + k.toNat) % 256 := by
  have hone : (1 : Word).toNat = 1 := rfl
  rw [frameIndex_toNat, loByte_toNat, BitVec.toNat_add, hone]
  omega

/-- LOAD brings the operand to A and leaves H and L alone. -/
theorem exec_load (o : Src8) (s : State) :
    ∃ t, exec (.load o) s = .next t ∧ t.a = s.src8 o ∧ t.h = s.h ∧ t.l = s.l :=
  ⟨_, rfl, rfl, rfl, rfl⟩

theorem hl_congr {s t : State} (hh : t.h = s.h) (hl : t.l = s.l) : t.hl = s.hl := by
  unfold State.hl; rw [hh, hl]

/-! ## The code of an operand with an offset -/

theorem addhlI16_then_load (k : Word) (s : State) : ∃ t, exec (.addhlI16 k) s = .next t ∧ t.hl = s.hl + k ∧
    t.src8 .hlInd = s.memRead (s.hl + k) ∧ t.readLoc .hlInd = s.memRead (s.hl + k) ∧
    t.locMemAddr .hlInd = some (s.hl + k) ∧
    ∃ u, exec (.load .hlInd) t = .next u ∧ u.a = s.memRead (s.hl + k) ∧ u.hl = s.hl + k := by
  obtain ⟨hhl, hsrc, hread, hloc⟩ := hlInd_after_setHL s (s.hl + k) (Instr.addhlI16 k).length
  obtain ⟨u, hexec, ha, hh, hl⟩ := exec_load .hlInd ((s.setHL (s.hl + k)).advance (Instr.addhlI16 k).length)
  exact ⟨_, rfl, hhl, hsrc, hread, hloc, u, hexec, ha.trans hsrc, (hl_congr hh hl).trans hhl⟩

theorem addlI8_then_load (k : Word) (s : State) : ∃ t, exec (.addlI8 (loByte k)) s = .next t ∧
    t.l.toNat = (s.l.toNat + k.toNat) % 256 ∧ t.h = s.h ∧
    t.src8 .lInd = s.mem.read ((s.l.toNat + k.toNat) % 256) ∧
    t.readLoc .lInd = s.mem.read ((s.l.toNat + k.toNat) % 256) ∧
    (∃ x, t.locMemAddr .lInd = some x ∧ x.toNat = (s.l.toNat + k.toNat) % 256) ∧
    ∃ u, exec (.load .lInd) t = .next u ∧ u.a = s.mem.read ((s.l.toNat + k.toNat) % 256) ∧
      u.l.toNat = (s.l.toNat + k.toNat) % 256 ∧ u.h = s.h := by
  obtain ⟨t, hexec, hl, hh, hmem⟩ : ∃ t, exec (.addlI8 (loByte k)) s = .next t ∧ t.l = s.l + loByte k ∧
      t.h = s.h ∧ t.mem = s.mem := ⟨_, rfl, rfl, rfl, rfl⟩
  have hl : t.l.toNat = (s.l.toNat + k.toNat) % 256 := by rw [hl, addLoByte_toNat]
  have hsrc : t.src8 .lInd = s.mem.read ((s.l.toNat + k.toNat) % 256) := by rw [src8_lInd, hmem, hl]
  obtain ⟨u, hload, ha, huh, hul⟩ := exec_load .lInd t
  exact ⟨t, hexec, hl, hh, hsrc, hsrc, ⟨_, rfl, (lAddr_toNat t).trans hl⟩, u, hload, ha.trans hsrc,
    (congrArg BitVec.toNat hul).trans hl, huh.trans hh⟩

/-- Settles O53: HL or L is at the offset address when the form is used, and the frame byte is one past the
offset. -/
theorem offsetOperandsReadTheOffsetAddress : Obligations.OffsetOperandsReadTheOffsetAddress := by
  unfold Obligations.OffsetOperandsReadTheOffsetAddress
  refine ⟨fun direct k u => expand_hl_offset direct, addhlI16_then_load, fun direct k => expand_l_offset direct,
    addlI8_then_load, fun direct => ⟨expand_hl_zero direct, expand_l_zero direct⟩, fun direct k s => ?_⟩
  have hindex := frameIndex_offset_toNat s k
  have hsrc : s.src8 (.frame (loByte (k + 1))) = s.stack.read ((s.bp.toNat + k.toNat) % 256) :=
    congrArg s.stack.read hindex
  obtain ⟨t, hload, ha, -, -⟩ := exec_load (.frame (loByte (k + 1))) s
  exact ⟨_, expand_frame direct k, hsrc, hsrc, ⟨_, rfl, hindex⟩, t, hload, ha.trans hsrc⟩

end Sys2Proof.Machine
end

section
/-! PROOFS. Scope (spec file 30, section 4): the code of a line with a memory operand (R125, R126, R359).

A line with a memory operand emits what the operand expands to and then the access. The expansion depends on the
mnemonic only through the column of R125 it is in: LOAD, STORE and XCH, or those that reach an absolute operand
through HL. -/

namespace Sys2Proof.Machine

/-! ## The access -/

/-- A memory expression, an indexed label or a frame slot. -/
def AsmOperand.isMemory : AsmOperand → Bool
  | .mem _ _ _ | .frame _ => true
  | .reg _ | .imm _ | .ref _ => false

theorem truncation_of_isMemory {o : AsmOperand} (ho : o.isMemory = true) (col : Nat) : truncation col o = [] := by
  cases o with
  | imm v => cases ho
  | _ => rfl

theorem toLoc_locSrc (loc : Loc8) : toLoc (locSrc loc) = some loc := by cases loc <;> rfl

theorem genForm_of_expand {direct : Bool} {mk : Src8 → Option Instr} {o : AsmOperand} {pre : List Emit}
    {form : Src8} {u : Option LabelUse} {i : Instr} (ho : o.isMemory = true)
    (hexp : expand direct o = some (pre, form, u)) (hmk : mk form = some i) (hwf : i.wf = true) (col : Nat) :
    genForm direct mk o col = .ok ⟨pre ++ [⟨i, u⟩], []⟩ := by
  simp [genForm, hexp, hmk, hwf, truncation_of_isMemory ho]

/-- With a memory operand, the mnemonic emits what the operand expands to, in the column `direct` of R125, and
then its own instruction `mk` at the place the operand names. -/
def EmitsAccess (direct : Bool) (m : Mnem) (mk : Loc8 → Instr) : Prop :=
  ∀ {o : AsmOperand} {pre : List Emit} {u : Option LabelUse} (loc : Loc8) (col : Nat), o.isMemory = true →
    expand direct o = some (pre, locSrc loc, u) → (mk loc).wf = true →
    genOne m o col = .ok ⟨pre ++ [⟨mk loc, u⟩], []⟩

/-! ## The mnemonics -/

theorem emitsAccess_direct {e : Mnem × (Loc8 → Instr)} (he : e ∈ directMnems) : EmitsAccess true e.1 e.2 := by
  intro o pre u loc col ho hexp hwf
  simp only [directMnems, List.mem_cons, List.not_mem_nil, or_false] at he
  rcases he with rfl | rfl | rfl
  · have himm : o ≠ .imm 0 := by rintro rfl; cases ho
    exact (if_neg himm).trans (genForm_of_expand ho hexp rfl hwf col)
  · exact genForm_of_expand ho hexp (congrArg (Option.map Instr.store) (toLoc_locSrc loc)) hwf col
  · exact genForm_of_expand ho hexp (congrArg (Option.map Instr.xch) (toLoc_locSrc loc)) hwf col

theorem genOne_of_srcForm {m : Mnem} {mk : Src8 → Instr} (h : m.srcForm = some mk) (o : AsmOperand) (col : Nat) :
    genOne m o col = genForm false (fun f => some (mk f)) o col := by
  cases m <;> cases h <;> rfl

theorem genOne_of_unaryForm {m : Mnem} {mk : Loc8 → Instr} {onHL : Instr} (h : m.unaryForm = some (mk, onHL))
    {o : AsmOperand} (ho : o ≠ .reg .hl) (col : Nat) :
    genOne m o col = genForm false (fun f => (toLoc f).map mk) o col := by
  cases m <;> cases h <;> exact if_neg ho

theorem emitsAccess_of_srcForm {m : Mnem} {mk : Src8 → Instr} (h : m.srcForm = some mk) :
    EmitsAccess false m fun loc => mk (locSrc loc) := by
  intro o pre u loc col ho hexp hwf
  rw [genOne_of_srcForm h]
  exact genForm_of_expand ho hexp rfl hwf col

theorem emitsAccess_of_unaryForm {m : Mnem} {mk : Loc8 → Instr} {onHL : Instr}
    (h : m.unaryForm = some (mk, onHL)) : EmitsAccess false m mk := by
  intro o pre u loc col ho hexp hwf
  have hreg : o ≠ .reg .hl := by rintro rfl; cases ho
  rw [genOne_of_unaryForm h hreg]
  exact genForm_of_expand ho hexp (congrArg (Option.map mk) (toLoc_locSrc loc)) hwf col

theorem emitsAccess_throughHL {e : Mnem × (Loc8 → Instr)} (he : e ∈ throughHLMnems) :
    EmitsAccess false e.1 e.2 := by
  simp only [throughHLMnems, List.mem_cons, List.not_mem_nil, or_false] at he
  rcases he with rfl | rfl | rfl | rfl | rfl | rfl | rfl | rfl | rfl | rfl | rfl | rfl | rfl | rfl |
    rfl | rfl | rfl | rfl
  iterate 14 exact emitsAccess_of_srcForm rfl
  all_goals exact emitsAccess_of_unaryForm rfl

/-! ## The forms the mnemonics take -/

theorem wf_hlInd_lInd : ∀ e ∈ directMnems ++ throughHLMnems,
    (e.2 .hlInd).wf = true ∧ (e.2 .lInd).wf = true := by decide

theorem wf_abs : ∀ e ∈ directMnems, ∀ k, (e.2 (.abs k)).wf = true := by
  simp [directMnems, Instr.wf, locSrc, Src8.okLoad, Loc8.okStore, Loc8.okXch]

/-- Only STORE has no frame form (D13). -/
theorem wf_frame : ∀ e ∈ directMnems ++ throughHLMnems, e.1 ≠ .store → ∀ d, (e.2 (.frame d)).wf = true := by
  simp [directMnems, throughHLMnems, Instr.wf, locSrc, Src8.okLoad, Loc8.okXch, Src8.okAlu, Src8.okShift,
    Loc8.okUnary]

theorem wf_hlInd_of_srcForm {m : Mnem} {mk : Src8 → Instr} (h : m.srcForm = some mk) :
    (mk .hlInd).wf = true := by
  cases m <;> cases h <;> rfl

theorem wf_hlInd_of_unaryForm {m : Mnem} {mk : Loc8 → Instr} {onHL : Instr} (h : m.unaryForm = some (mk, onHL)) :
    (mk .hlInd).wf = true := by
  cases m <;> cases h <;> rfl

/-! ## Absolute operands -/

/-- Through HL, the label's address goes to LDHL_I16 and the access is the (HL) form. -/
theorem emits_throughHL_absolute {m : Mnem} {mk : Loc8 → Instr} (h : EmitsAccess false m mk)
    (hwf : (mk .hlInd).wf = true) (k : Word) (u : Option LabelUse) (col : Nat) :
    Emits (genOne m (.mem .absolute k u) col) [(.ldhlI16 k, u), (mk .hlInd, none)] :=
  h .hlInd col rfl (expand_absolute_throughHL k u) hwf

theorem exec_store_abs (k : Word) (s : State) :
    ∃ t, exec (.store (.abs k)) s = .next t ∧ t.memRead k = s.a ∧ t.hl = s.hl ∧ MemKeptBut (some k) s t :=
  ⟨_, rfl, (memRead_writeLoc s (.abs k) s.a k).trans (if_pos rfl), rfl, memKeptBut_writeLoc s (.abs k) s.a⟩

theorem exec_xch_abs (k : Word) (s : State) : ∃ t, exec (.xch (.abs k)) s = .next t ∧ t.a = s.memRead k ∧
    t.memRead k = s.a ∧ t.hl = s.hl ∧ MemKeptBut (some k) s t :=
  ⟨_, rfl, rfl, (memRead_writeLoc s (.abs k) s.a k).trans (if_pos rfl), rfl, memKeptBut_writeLoc s (.abs k) s.a⟩

/-- Without a carry in, the ALU's sum is the byte sum. -/
theorem addResult_false (a v : Byte) : addResult a v false = a + v := by
  apply BitVec.eq_of_toNat_eq
  simp [addResult, bitNat, BitVec.toNat_add]

theorem exec_add (o : Src8) (s : State) :
    ∃ t, exec (.add o) s = .next t ∧ t.a = s.a + s.src8 o ∧ t.hl = s.hl :=
  ⟨_, rfl, addResult_false s.a (s.src8 o), rfl⟩

theorem exec_inc_hlInd (s : State) : ∃ t, exec (.inc .hlInd) s = .next t ∧
    t.memRead s.hl = s.memRead s.hl + 1 ∧ t.hl = s.hl ∧ MemKeptBut (some s.hl) s t :=
  ⟨_, rfl, (memRead_writeLoc s .hlInd _ s.hl).trans (if_pos rfl), rfl, memKeptBut_writeLoc s .hlInd _⟩

/-- LDHL_I16 points HL at `k` and leaves A and MEM alone. -/
theorem exec_ldhlI16 (k : Word) (s : State) : ∃ t, exec (.ldhlI16 k) s = .next t ∧ t.hl = k ∧ t.a = s.a ∧
    t.mem = s.mem :=
  ⟨_, rfl, hl_setHL s k, rfl, rfl⟩

theorem ldhlI16_then_add (k : Word) (s : State) : ∃ t u, exec (.ldhlI16 k) s = .next t ∧
    exec (.add .hlInd) t = .next u ∧ u.a = s.a + s.memRead k ∧ u.hl = k := by
  obtain ⟨t, ht, hhl, ha, hmem⟩ := exec_ldhlI16 k s
  obtain ⟨u, hu, hua, huhl⟩ := exec_add .hlInd t
  have hsrc : t.src8 .hlInd = s.memRead k := (congrArg t.memRead hhl).trans (memRead_congr hmem k)
  exact ⟨t, u, ht, hu, by rw [hua, ha, hsrc], huhl.trans hhl⟩

theorem ldhlI16_then_inc (k : Word) (s : State) : ∃ t u, exec (.ldhlI16 k) s = .next t ∧
    exec (.inc .hlInd) t = .next u ∧ u.memRead k = s.memRead k + 1 ∧ u.hl = k ∧ MemKeptBut (some k) s u := by
  obtain ⟨t, ht, hhl, -, hmem⟩ := exec_ldhlI16 k s
  obtain ⟨u, hu, hread, huhl, hkept⟩ := exec_inc_hlInd t
  rw [hhl] at hread huhl hkept
  rw [memRead_congr hmem k] at hread
  exact ⟨t, u, ht, hu, hread, huhl, fun x hx => (hkept x hx).trans (memRead_congr hmem x)⟩

/-- Settles O54: the mnemonics of the first column have an (a16) form, and the others point HL at the address. -/
theorem absoluteOperandsReadTheirAddress : Obligations.AbsoluteOperandsReadTheirAddress := by
  unfold Obligations.AbsoluteOperandsReadTheirAddress
  refine ⟨fun e he k u col => ?_, fun e he => ?_, fun m mk k u col h => ?_, fun m mk onHL k u col h => ?_,
    fun k s => ⟨?_, exec_store_abs k s, exec_xch_abs k s⟩, fun k s => ⟨_, rfl, hlInd_after_setHL s k _⟩,
    ldhlI16_then_add, ldhlI16_then_inc⟩
  · exact emitsAccess_direct he (.abs k) col rfl (expand_absolute_direct k u) (wf_abs e he k)
  · exact emits_throughHL_absolute (emitsAccess_throughHL he) (wf_hlInd_lInd e (List.mem_append_right _ he)).1
  · exact emits_throughHL_absolute (emitsAccess_of_srcForm h) (wf_hlInd_of_srcForm h) k u col
  · exact emits_throughHL_absolute (emitsAccess_of_unaryForm h) (wf_hlInd_of_unaryForm h) k u col
  · obtain ⟨t, hexec, ha, hh, hl⟩ := exec_load (.abs k) s
    exact ⟨t, hexec, ha, hl_congr hh hl⟩

/-! ## Operands with a base -/

theorem emitsAccess_of_mem {e : Mnem × (Loc8 → Instr)} (he : e ∈ directMnems ++ throughHLMnems) :
    ∃ direct, EmitsAccess direct e.1 e.2 :=
  (List.mem_append.mp he).elim (fun he => ⟨true, emitsAccess_direct he⟩)
    fun he => ⟨false, emitsAccess_throughHL he⟩

/-- Settles O55: an operand with a base expands alike in both columns of R125, and only STORE refuses the frame
form. -/
theorem everyMnemonicEmitsItsOffsetCode : Obligations.EveryMnemonicEmitsItsOffsetCode := by
  unfold Obligations.EveryMnemonicEmitsItsOffsetCode
  refine ⟨fun e he k u col => ?_, fun _ _ => rfl⟩
  obtain ⟨direct, hemits⟩ := emitsAccess_of_mem he
  obtain ⟨hhl, hl⟩ := wf_hlInd_lInd e he
  refine ⟨fun h => ?_, ?_, fun h => ?_, ?_, fun h => ?_⟩
  · exact hemits .hlInd col rfl (expand_hl_offset direct h) hhl
  · exact hemits .hlInd col rfl (expand_hl_zero direct) hhl
  · exact hemits .lInd col rfl (expand_l_offset direct h) hl
  · exact hemits .lInd col rfl (expand_l_zero direct) hl
  · exact hemits (.frame _) col rfl (expand_frame direct k) (wf_frame e he h _)

end Sys2Proof.Machine
end

section
/-! PROOFS. Scope (spec file 30, section 4): pass 2 and the executable (R130, R131).

A patch writes the two bytes of its site. Pass 1 makes a site of the last two bytes of a labelled instruction, so
every site is within the code before the HALT byte. That needs a labelled instruction to be two bytes long at
least, which is shown of every line that emits code. -/

namespace Sys2Proof.Machine

/-! ## One patch -/

theorem length_patchAt (code : List Byte) (offset : Nat) (v : Word) :
    (patchAt code offset v).length = code.length := by
  simp [patchAt]

theorem getElem?_patchAt_of_ne (code : List Byte) (v : Word) {offset k : Nat} (h0 : k ≠ offset)
    (h1 : k ≠ offset + 1) : (patchAt code offset v)[k]? = code[k]? := by
  simp [patchAt, List.getElem?_set_ne h0.symm, List.getElem?_set_ne h1.symm]

theorem siteBase_patchAt {code : List Byte} {offset : Nat} (v : Word) (h : offset + 1 < code.length) :
    siteBase (patchAt code offset v) offset = siteBase code offset + v := by
  have hhi : (patchAt code offset v).getD offset 0 = hiByte (siteBase code offset + v) := by
    simp [patchAt, Nat.lt_of_succ_lt h]
  have hlo : (patchAt code offset v).getD (offset + 1) 0 = loByte (siteBase code offset + v) := by
    simp [patchAt, h]
  rw [siteBase, hhi, hlo, joinBytes_hiByte_loByte]

/-- Settles O56: the two bytes written are those of the sum, and no other byte is written. -/
theorem patchAddsTheLabelAddressAtItsSite : Obligations.PatchAddsTheLabelAddressAtItsSite := by
  unfold Obligations.PatchAddsTheLabelAddressAtItsSite
  intro code offset v h
  exact ⟨siteBase_patchAt v h, length_patchAt code offset v, fun _ => getElem?_patchAt_of_ne code v⟩

/-! ## Where pass 1 leaves room for an address

A labelled instruction is two bytes long at least: it has a 16-bit field, to which pass 2 adds the address. -/

/-- Every labelled instruction has room for an address. -/
def LabelsFit (es : List Emit) : Prop := ∀ e ∈ es, e.label ≠ none → 2 ≤ (encode e.instr).length

/-- What is emitted, if the line is not rejected, has room for its addresses. -/
def CodeFits (r : Except LineStop LineCode) : Prop := ∀ lc, r = .ok lc → LabelsFit lc.emits

theorem labelsFit_nil : LabelsFit [] := fun _ he => nomatch he

theorem labelsFit_single {e : Emit} (h : e.label ≠ none → 2 ≤ (encode e.instr).length) : LabelsFit [e] := by
  intro x hx
  rwa [List.mem_singleton.mp hx]

theorem labelsFit_unlabelled (i : Instr) : LabelsFit [⟨i, none⟩] := labelsFit_single fun h => absurd rfl h

theorem labelsFit_append {es es' : List Emit} (h : LabelsFit es) (h' : LabelsFit es') : LabelsFit (es ++ es') :=
  fun e he => (List.mem_append.mp he).elim (h e) (h' e)

theorem codeFits_error (e : LineStop) : CodeFits (.error e) := fun _ h => nomatch h

theorem codeFits_ok {lc : LineCode} (h : LabelsFit lc.emits) : CodeFits (.ok lc) := by
  rintro _ ⟨⟩
  exact h

theorem codeFits_unlabelled (i : Instr) (ws : List Nat) : CodeFits (.ok ⟨[⟨i, none⟩], ws⟩) :=
  codeFits_ok (labelsFit_unlabelled i)

/-- The synthetic instructions have room for an address, and only an (a16) access is labelled itself. -/
theorem labelsFit_expand {direct : Bool} {o : AsmOperand} {pre : List Emit} {form : Src8} {u : Option LabelUse}
    (h : expand direct o = some (pre, form, u)) :
    LabelsFit pre ∧ (u ≠ none → direct = true ∧ ∃ k, form = .abs k) := by
  have hplain : LabelsFit [] ∧ ((none : Option LabelUse) ≠ none → direct = true ∧ ∃ k, form = .abs k) :=
    ⟨labelsFit_nil, fun h => absurd rfl h⟩
  have hsynthetic (e : Emit) (hlen : 2 ≤ (encode e.instr).length) :
      LabelsFit [e] ∧ ((none : Option LabelUse) ≠ none → direct = true ∧ ∃ k, form = .abs k) :=
    ⟨labelsFit_single fun _ => hlen, fun h => absurd rfl h⟩
  cases o with
  | reg r =>
    obtain ⟨q, -, hq⟩ := Option.map_eq_some_iff.mp h
    cases hq
    exact hplain
  | imm v => cases h; exact hplain
  | frame k => cases h; exact hplain
  | ref u => cases h
  | mem base k label =>
    cases base with
    | absolute =>
      cases direct <;> cases h
      · exact hsynthetic ⟨.ldhlI16 k, label⟩ (Nat.le_succ 2)
      · exact ⟨labelsFit_nil, fun _ => ⟨rfl, k, rfl⟩⟩
    | hl =>
      by_cases hoff : k ≠ 0 ∨ label ≠ none
      · cases (expand_hl_offset direct hoff).symm.trans h
        exact hsynthetic ⟨.addhlI16 k, label⟩ (Nat.le_succ 2)
      · obtain ⟨rfl, rfl⟩ : k = 0 ∧ label = none := by simpa using hoff
        cases h
        exact hplain
    | l =>
      cases label with
      | some _ => cases h
      | none =>
        by_cases hoff : k = 0
        · cases hoff
          cases h
          exact hplain
        · cases (expand_l_offset direct hoff).symm.trans h
          exact hsynthetic ⟨.addlI8 (loByte k), none⟩ (Nat.le_refl 2)
    | bp => cases h

/-- A line of one operand; `hmk` says it of the (a16) access. -/
theorem codeFits_genForm {direct : Bool} {mk : Src8 → Option Instr} (o : AsmOperand) (col : Nat)
    (hmk : direct = true → ∀ k i, mk (.abs k) = some i → i.wf = true → 2 ≤ (encode i).length) :
    CodeFits (genForm direct mk o col) := by
  unfold genForm
  split
  · exact codeFits_error _
  next pre form u hexp =>
    obtain ⟨hpre, hu⟩ := labelsFit_expand hexp
    split
    · exact codeFits_error _
    next i hi =>
      split
      · next hwf =>
        refine codeFits_ok (labelsFit_append hpre (labelsFit_single fun hlabel => ?_))
        obtain ⟨hdirect, k, rfl⟩ := hu hlabel
        exact hmk hdirect k i hi hwf
      · exact codeFits_error _

theorem codeFits_genTarget {mk : Word → Instr} (hmk : ∀ w, 2 ≤ (encode (mk w)).length) (o : AsmOperand)
    (col : Nat) (ws : List Nat) : CodeFits ((genTarget mk o col).map fun e => ⟨[e], ws⟩) := by
  cases o with
  | imm v => exact codeFits_unlabelled _ _
  | ref u => exact codeFits_ok (labelsFit_single fun _ => hmk 0)
  | reg _ | mem _ _ _ | frame _ => exact codeFits_error _

theorem codeFits_genCount (mk : Byte → Instr) (o : AsmOperand) (col : Nat) : CodeFits (genCount mk o col) := by
  cases o with
  | imm v => exact codeFits_unlabelled _ _
  | reg _ | mem _ _ _ | frame _ | ref _ => exact codeFits_error _

theorem codeFits_genPush (o : AsmOperand) (col : Nat) : CodeFits (genPush o col) := by
  cases o with
  | imm v => exact codeFits_unlabelled _ _
  | reg r =>
    cases r with
    | hl => exact codeFits_error _
    | _ => exact codeFits_unlabelled _ _
  | mem _ _ _ | frame _ | ref _ => exact codeFits_error _

theorem codeFits_genPop (o : AsmOperand) (col : Nat) : CodeFits (genPop o col) := by
  cases o with
  | reg r =>
    cases r with
    | hl => exact codeFits_error _
    | _ => exact codeFits_unlabelled _ _
  | imm _ | mem _ _ _ | frame _ | ref _ => exact codeFits_error _

theorem length_encode_of_jumpForm {m : Mnem} {mk : Word → Instr} (h : m.jumpForm = some mk) (w : Word) :
    2 ≤ (encode (mk w)).length := by
  cases m <;> cases h <;> exact Nat.le_succ 2

/-- No wide mnemonic has an (a16) form. -/
theorem wf_abs_of_wideForm {m : Mnem} {mk : Src8 → Instr} (h : m.wideForm = some mk) (k : Word) :
    (mk (.abs k)).wf = false := by
  cases m <;> cases h <;> rfl

/-- The cases are those of `genOne`, the last one by the families of mnemonics. -/
theorem codeFits_genOne (m : Mnem) (o : AsmOperand) (col : Nat) : CodeFits (genOne m o col) := by
  have hcall (w : Word) : 2 ≤ (encode (.call w)).length := Nat.le_succ 2
  unfold genOne
  split
  case h_1 => -- LOAD
    split
    · exact codeFits_unlabelled _ _
    · exact codeFits_genForm o col fun _ k i hi _ => by cases hi; exact Nat.le_succ 2
  case h_2 | h_3 => -- STORE, XCH
    exact codeFits_genForm o col fun _ k i hi _ => by cases hi; exact Nat.le_succ 2
  case h_4 => exact codeFits_genPush o col
  case h_5 => exact codeFits_genPop o col
  case h_6 | h_7 => exact codeFits_genCount _ o col
  case h_8 => -- CALL
    split
    · exact codeFits_genTarget hcall _ col []
    · exact codeFits_error _
  next =>
    split
    · exact codeFits_genForm o col fun h => nomatch h
    next hmk =>
      refine codeFits_genForm o col fun _ k i hi hwf => ?_
      cases hi
      cases (wf_abs_of_wideForm hmk k).symm.trans hwf
    next =>
      split
      · exact codeFits_unlabelled _ _
      · exact codeFits_genForm o col fun h => nomatch h
    next hmk => exact codeFits_genTarget (length_encode_of_jumpForm hmk) o col []
    next => exact codeFits_error _

theorem codeFits_genJext (eol : Nat) (ts : List LexToken) : CodeFits (genJext eol ts) := by
  have hjext (mode : JextMode) (mask : BitVec 6) (w : Word) : 2 ≤ (encode (.jext mode mask w)).length :=
    Nat.le_add_left 2 2
  unfold genJext
  split
  · exact codeFits_error _
  split
  · exact codeFits_error _
  next =>
    split
    · exact codeFits_error _
    split
    · split
      · exact codeFits_error _
      · exact codeFits_genTarget (hjext _ _) _ _ _
      · exact codeFits_error _
    · exact codeFits_error _
  · exact codeFits_error _

theorem codeFits_genOperator (m : Mnem) (eol : Nat) (ts : List LexToken) : CodeFits (genOperator m eol ts) := by
  unfold genOperator
  split
  next =>
    split
    · exact codeFits_unlabelled _ _
    · exact codeFits_error _
  next =>
    split
    · exact codeFits_genJext eol ts
    split
    · split
      · exact codeFits_unlabelled _ _
      · exact codeFits_error _
    split
    · exact codeFits_error _
    · exact codeFits_genOne _ _ _
    · exact codeFits_error _

theorem exists_of_map_eq_ok {ε α β : Type} {f : α → β} {r : Except ε α} {b : β} (h : r.map f = .ok b) :
    ∃ a, r = .ok a ∧ f a = b := by
  cases r with
  | error e => cases h
  | ok a =>
    cases h
    exact ⟨a, rfl, rfl⟩

/-- Only the line of a mnemonic is code. -/
theorem labelsFit_of_parseLine {eol : Nat} {ts : List LexToken} {lc : LineCode}
    (h : parseLine eol ts = .ok (.code lc)) : LabelsFit lc.emits := by
  unfold parseLine at h
  split at h
  · cases h
  split at h
  next m _ =>
    obtain ⟨lc', hgen, hlc⟩ := exists_of_map_eq_ok h
    cases hlc
    exact codeFits_genOperator m eol _ lc hgen
  next =>
    obtain ⟨_, -, hdata⟩ := exists_of_map_eq_ok h
    cases hdata
  · split at h <;> cases h
  · split at h <;> cases h
  · split at h <;> cases h
  all_goals cases h

/-! ## Pass 1 -/

/-- Every patch site has its two bytes within the code. -/
def Pass1.SitesFit (p : Pass1) : Prop := ∀ site ∈ p.sites, site.offset + 1 < p.code.length

theorem Pass1.SitesFit.mono {p q : Pass1} (h : p.SitesFit) (hsites : q.sites = p.sites)
    (hcode : p.code.length ≤ q.code.length) : q.SitesFit := by
  intro site hsite
  exact (h site (hsites ▸ hsite)).trans_le hcode

theorem Pass1.SitesFit.emit {p : Pass1} (h : p.SitesFit) (line : Nat) {e : Emit}
    (he : e.label ≠ none → 2 ≤ (encode e.instr).length) : (p.emit line e).SitesFit := by
  have hlen : (p.emit line e).code.length = p.code.length + (encode e.instr).length := List.length_append
  intro site hsite
  rw [hlen]
  unfold Pass1.emit at hsite
  split at hsite
  · exact Nat.lt_add_right _ (h site hsite)
  next u hu =>
    rcases List.mem_append.mp hsite with hsite | hsite
    · exact Nat.lt_add_right _ (h site hsite)
    · cases List.mem_singleton.mp hsite
      have hroom := he (by simp [hu])
      simp only [List.length_append]
      omega

theorem Pass1.SitesFit.foldl_emit {p : Pass1} (h : p.SitesFit) (line : Nat) {es : List Emit} (hes : LabelsFit es) :
    (es.foldl (fun q e => q.emit line e) p).SitesFit := by
  induction es generalizing p with
  | nil => exact h
  | cons e es ih =>
    exact ih (h.emit line (hes e List.mem_cons_self)) fun x hx => hes x (List.mem_cons_of_mem _ hx)

theorem Pass1.SitesFit.line {p q : Pass1} (h : p.SitesFit) {start n : Nat} {cs : List Char}
    (hline : p.line start n cs = .ok q) : q.SitesFit := by
  unfold Pass1.line at hline
  split at hline
  · cases hline
  · cases hline
    exact h.mono rfl (by simp)
  · cases hline
    exact h
  · cases hline
    exact h.mono rfl le_rfl
  · cases hline
    exact h.mono rfl le_rfl
  next lc hparse =>
    cases hline
    exact (h.foldl_emit n (labelsFit_of_parseLine hparse)).mono rfl le_rfl
  · cases hline
    exact h.mono rfl (by simp)

theorem Pass1.SitesFit.lines {p q : Pass1} (h : p.SitesFit) {start n : Nat} {src : List (List Char)}
    (hlines : p.lines start n src = .ok q) : q.SitesFit := by
  induction src generalizing p n with
  | nil =>
    cases hlines
    exact h
  | cons cs r ih =>
    unfold Pass1.lines at hlines
    split at hlines
    · cases hlines
    next hline => exact ih (h.line hline) hlines

/-! ## Pass 2 -/

theorem getLast?_patchAt {code : List Byte} {offset : Nat} (v : Word) (h : offset + 2 < code.length) :
    (patchAt code offset v).getLast? = code.getLast? := by
  rw [List.getLast?_eq_getElem?, List.getLast?_eq_getElem?, length_patchAt]
  exact getElem?_patchAt_of_ne code v (by omega) (by omega)

theorem getLast?_patchAll (labels : List (LabelName × Word)) (a : Assembled) (sites : List PatchSite)
    (h : ∀ site ∈ sites, site.offset + 2 < a.code.length) :
    (patchAll labels a sites).code.getLast? = a.code.getLast? := by
  induction sites generalizing a with
  | nil => rfl
  | cons site r ih =>
    have hsite := h site List.mem_cons_self
    have hr : ∀ x ∈ r, x.offset + 2 < a.code.length := fun x hx => h x (List.mem_cons_of_mem _ hx)
    unfold patchAll
    split
    next v _ =>
      rw [ih _ (by simpa [length_patchAt] using hr)]
      exact getLast?_patchAt v hsite
    · exact ih _ hr

/-! ## The executable -/

theorem getLast?_code_of_assemble {p : Params} {src : List Char} {a : Assembled} (h : assemble p src = .ok a) :
    a.code.getLast? = some 0 := by
  unfold assemble at h
  split at h
  · cases h
  next q hlines =>
    cases h
    have hempty : Pass1.SitesFit ⟨[], [], [], []⟩ := List.forall_mem_nil _
    have hfit : q.SitesFit := hempty.lines hlines
    have hsites : ∀ site ∈ q.sites, site.offset + 2 < (q.code ++ encode .halt).length := by
      intro site hsite
      have := hfit site hsite
      simp [encode]
      omega
    rw [getLast?_patchAll _ _ _ hsites]
    exact List.getLast?_concat

/-- Settles O57: the image is the reserved zero bytes and the code, and every patch site is before the HALT byte. -/
theorem executableIsZeroPrefixThenCodeEndingInHalt : Obligations.ExecutableIsZeroPrefixThenCodeEndingInHalt := by
  unfold Obligations.ExecutableIsZeroPrefixThenCodeEndingInHalt
  intro p src a h
  refine ⟨by simp [Assembled.image], fun k hk => ?_, fun k => ?_, getLast?_code_of_assemble h⟩
  · simp [Assembled.image, List.getElem?_append_left, hk]
  · simp [Assembled.image, List.getElem?_append_right]

end Sys2Proof.Machine
end

section
/-! PROOFS. Scope (spec file 40, section 1): the step (R140 to R148).

A step draws the external bytes and then runs what the decoder reads at PC. Every instruction answers a next
state, so a step does; at a HALT opcode the draws are all it does. -/

namespace Sys2Proof.Machine

/-! ## The fetch -/

@[simp] theorem State.drawExternal_pc (s : State) : s.drawExternal.pc = s.pc := by
  obtain ⟨m, hdraw, -, -⟩ := drawAt_spec s.params.externalWriteRegion s
  rw [State.drawExternal, hdraw]

/-- Operand byte 0 is the opcode byte, at PC itself (R142). -/
theorem fetch8_zero (s : State) : s.fetch8 0 = s.memRead s.pc := congrArg s.memRead (BitVec.add_zero s.pc)

theorem nextOpcode_eq_memRead (s : State) : s.nextOpcode = s.drawExternal.memRead s.pc := by
  rw [State.nextOpcode, fetch8_zero, State.drawExternal_pc]

theorem step_next (s : State) : ∃ t, step s = .next t := by
  obtain ⟨t, hexec, -⟩ := exec_next_ownKept s.drawExternal.fetch s.drawExternal
  exact ⟨t, hexec⟩

/-- Settles O38: every instruction answers a next state, and PC is the same after the draws. -/
theorem everyStepHasANextState : Obligations.EveryStepHasANextState := by
  unfold Obligations.EveryStepHasANextState
  intro s
  obtain ⟨t, hstep⟩ := step_next s
  exact ⟨t, s.nextOpcode, by rw [State.hostStep, hstep], hstep, nextOpcode_eq_memRead s⟩

/-! ## From bytes to the instruction -/

/-- Four bytes are never too short: the decoder reads an instruction from them and leaves the rest. -/
theorem decodeBytes_four (op b1 b2 b3 : Byte) :
    decodeBytes [op, b1, b2, b3] = .ok (decode op b1 b2 b3, [b1, b2, b3].drop (opLength op - 1)) :=
  if_neg (Nat.not_lt.mpr (opLength_le op))

theorem decode_of_encode_isPrefix {i : Instr} {op b1 b2 b3 : Byte} (hwf : i.wf = true)
    (hpre : encode i <+: [op, b1, b2, b3]) : decode op b1 b2 b3 = i := by
  obtain ⟨rest, hbytes⟩ := hpre
  have hread : decodeBytes [op, b1, b2, b3] = .ok (i, rest) := hbytes ▸ decodesTo_encode i hwf rest
  rw [decodeBytes_four] at hread
  cases hread
  rfl

/-- An encoding has no byte but those its opcode calls for: the decoder leaves none of it over. -/
theorem length_encode_le {i : Instr} (hwf : i.wf = true) : (encode i).length ≤ 4 := by
  have hread : decodeBytes (encode i ++ []) = .ok (i, []) := decodesTo_encode i hwf []
  rw [List.append_nil] at hread
  cases henc : encode i with
  | nil => exact Nat.zero_le 4
  | cons op rest =>
    rw [henc, decodeBytes] at hread
    split at hread
    · cases hread
    · simp only [Except.ok.injEq, Prod.mk.injEq, List.drop_eq_nil_iff] at hread
      obtain ⟨-, hrest⟩ := hread
      have := opLength_le op
      rw [List.length_cons]
      omega

/-- The instruction at PC is the one whose bytes stand there, from PC on and modulo 65536 (R142). -/
theorem fetch_of_bytes {i : Instr} {s : State} (hwf : i.wf = true)
    (hbytes : ∀ k, k < (encode i).length → (encode i)[k]? = some (s.fetch8 k)) : s.fetch = i := by
  refine decode_of_encode_isPrefix hwf (List.prefix_iff_getElem?.mpr fun k hk => ?_)
  have hk4 : k < 4 := Nat.lt_of_lt_of_le hk (length_encode_le hwf)
  rw [← List.getElem?_eq_getElem hk, hbytes k hk]
  interval_cases k <;> rfl

/-- Settles O41: the bytes at PC decode to the instruction, and a step runs what it decodes. -/
theorem stepRunsTheDecodedInstruction : Obligations.StepRunsTheDecodedInstruction := by
  unfold Obligations.StepRunsTheDecodedInstruction
  intro i s hwf hbytes
  have hfetch : s.drawExternal.fetch = i := by
    refine fetch_of_bytes hwf fun k hk => ?_
    rw [State.fetch8, State.pcPlus, State.drawExternal_pc]
    exact hbytes k hk
  exact ⟨congrArg (exec · s.drawExternal) hfetch, drawExternal_of_empty s⟩

/-! ## HALT -/

theorem halted_iff (s : State) : s.halted = true ↔ s.memRead s.pc = 0 := beq_iff_eq

theorem nextOpcode_eq_zero_iff (s : State) : s.nextOpcode = 0 ↔ s.drawExternal.halted = true := by
  rw [halted_iff, nextOpcode_eq_memRead, State.drawExternal_pc]

theorem fetch_of_halted {s : State} (h : s.halted = true) : s.fetch = .halt := by
  have hop : s.fetch8 0 = 0 := (fetch8_zero s).trans ((halted_iff s).mp h)
  rw [State.fetch, hop]
  rfl

/-- A step that fetches 0x00 does no more than draw (R145). -/
theorem step_of_nextOpcode_eq_zero {s : State} (h : s.nextOpcode = 0) : step s = .next s.drawExternal := by
  have hfetch : s.drawExternal.fetch = .halt := fetch_of_halted ((nextOpcode_eq_zero_iff s).mp h)
  exact congrArg (exec · s.drawExternal) hfetch

/-- Where no external write reaches the byte at PC, the opcode fetched from a halted state is 0x00. -/
theorem nextOpcode_of_halted {s : State} (h : s.halted = true) (hpc : s.pc ∉ s.params.externalWriteRegion) :
    s.nextOpcode = 0 := by
  rw [nextOpcode_eq_memRead, State.drawExternal, memRead_drawAt_of_notMem s hpc]
  exact (halted_iff s).mp h

/-- Settles O33: without external writes the step at a HALT opcode is HALT's meaning on the state itself. -/
theorem haltChangesNothing : Obligations.HaltChangesNothing := by
  unfold Obligations.HaltChangesNothing
  refine ⟨fun _ => rfl, fun s hregion hop => ?_⟩
  have hzero : s.nextOpcode = 0 := by
    rw [nextOpcode_eq_memRead, drawExternal_of_empty s hregion, hop]
  rw [State.hostStep, step_of_nextOpcode_eq_zero hzero, drawExternal_of_empty s hregion, hzero]

/-! ## A halted state is final (R148) -/

/-- Nothing has happened between `s` and `t` but external draws. -/
def OnlyDrawn (s t : State) : Prop :=
  { t with mem := s.mem, draws := s.draws } = s ∧
  (∀ x, x ∉ s.params.externalWriteRegion → t.memRead x = s.memRead x) ∧
  (s.params.externalWriteRegion = [] → t = s)

theorem onlyDrawn_refl (s : State) : OnlyDrawn s s := ⟨rfl, fun _ _ => rfl, fun _ => rfl⟩

theorem onlyDrawn_drawExternal (s : State) : OnlyDrawn s s.drawExternal := by
  obtain ⟨m, hdraw, hread, -⟩ := drawAt_spec s.params.externalWriteRegion s
  refine ⟨?_, fun x hx => memRead_drawAt_of_notMem s hx, drawExternal_of_empty s⟩
  rw [State.drawExternal, hdraw]

theorem OnlyDrawn.pc_eq {s t : State} (h : OnlyDrawn s t) : t.pc = s.pc := (congrArg State.pc h.1 :)

theorem OnlyDrawn.params_eq {s t : State} (h : OnlyDrawn s t) : t.params = s.params := (congrArg State.params h.1 :)

theorem OnlyDrawn.trans {s t u : State} (hst : OnlyDrawn s t) (htu : OnlyDrawn t u) : OnlyDrawn s u := by
  have hparams := hst.params_eq
  obtain ⟨hfields, hread, hempty⟩ := hst
  obtain ⟨hfields', hread', hempty'⟩ := htu
  rw [hparams] at hread' hempty'
  refine ⟨?_, fun x hx => (hread' x hx).trans (hread x hx), fun h => (hempty' h).trans (hempty h)⟩
  calc { u with mem := s.mem, draws := s.draws }
      = { { u with mem := t.mem, draws := t.draws } with mem := s.mem, draws := s.draws } := rfl
    _ = s := by rw [hfields', hfields]

/-- Draws that spare the byte at PC leave a halted state halted, and PC still outside the region. -/
theorem OnlyDrawn.keeps_halted {s t : State} (h : OnlyDrawn s t) (hs : s.halted = true)
    (hpc : s.pc ∉ s.params.externalWriteRegion) :
    t.halted = true ∧ t.pc ∉ t.params.externalWriteRegion := by
  have hpc_eq := h.pc_eq
  have hparams := h.params_eq
  obtain ⟨-, hread, -⟩ := h
  rw [halted_iff, hpc_eq, hparams, hread s.pc hpc]
  exact ⟨(halted_iff s).mp hs, hpc⟩

theorem steps_of_halted (n : Nat) {s : State} (hs : s.halted = true) (hpc : s.pc ∉ s.params.externalWriteRegion) :
    ∃ t, steps n s = .next t ∧ OnlyDrawn s t := by
  induction n generalizing s with
  | zero => exact ⟨s, rfl, onlyDrawn_refl s⟩
  | succ n ih =>
    have hdrawn := onlyDrawn_drawExternal s
    obtain ⟨hs', hpc'⟩ := hdrawn.keeps_halted hs hpc
    obtain ⟨t, hsteps, ht⟩ := ih hs' hpc'
    have hstep := step_of_nextOpcode_eq_zero (nextOpcode_of_halted hs hpc)
    exact ⟨t, (steps_succ hstep n).trans hsteps, hdrawn.trans ht⟩

/-- Settles O39: every step of a halted state only draws, and no draw reaches the byte at PC. -/
theorem haltedStateIsFinal : Obligations.HaltedStateIsFinal := by
  unfold Obligations.HaltedStateIsFinal
  intro n s hs hpc
  obtain ⟨t, hsteps, hdrawn⟩ := steps_of_halted n hs hpc
  obtain ⟨ht, hpc'⟩ := hdrawn.keeps_halted hs hpc
  exact ⟨t, hsteps, ht, nextOpcode_of_halted ht hpc', hdrawn⟩

end Sys2Proof.Machine
end

section
/-! PROOFS. Scope (spec file 40, section 2): the host's LOAD (R151).

LOAD stores its bytes one after the other. No sequence that fits MEM comes round to its first address, so each
address keeps the byte of its own store. -/

namespace Sys2Proof.Machine

/-- Storing a sequence of bytes touches MEM alone. -/
theorem storeBytes_eq (bytes : List Byte) (x : Word) (s : State) :
    ∃ m : Memory, s.storeBytes x bytes = { s with mem := m } := by
  induction bytes generalizing x s with
  | nil => exact ⟨s.mem, rfl⟩
  | cons v rest ih => exact ih (x + 1) (s.memWrite x v)

/-- A byte of MEM read after a sequence of bytes is stored from `x` on, modulo 65536. -/
theorem memRead_storeBytes {bytes : List Byte} (hlen : bytes.length ≤ 65536) (x y : Word) (s : State) :
    (s.storeBytes x bytes).memRead y = (bytes[(y - x).toNat]?).getD (s.memRead y) := by
  induction bytes generalizing x s with
  | nil => rfl
  | cons v rest ih =>
    rw [List.length_cons] at hlen
    rw [State.storeBytes, ih (by omega), memRead_memWrite]
    by_cases hy : y = x
    · subst hy
      have hwrap : (y - (y + 1)).toNat = 65535 := by bv_omega
      have hend : rest[65535]? = none := List.getElem?_eq_none (by omega)
      rw [hwrap, hend, if_pos rfl, BitVec.sub_self]
      rfl
    · have hnext : (y - x).toNat = (y - (x + 1)).toNat + 1 := by bv_omega
      rw [hnext, List.getElem?_cons_succ, if_neg hy]

/-- Settles O37: LOAD is a store of the bytes from address 0 on, or a refusal. -/
theorem hostLoadCopiesBytesFromAddressZero : Obligations.HostLoadCopiesBytesFromAddressZero := by
  unfold Obligations.HostLoadCopiesBytesFromAddressZero
  intro bytes s
  refine ⟨fun hlen => ⟨s.storeBytes 0 bytes, if_neg (Nat.not_lt.mpr hlen), fun x => ?_, ?_⟩,
    fun hlen => if_pos hlen⟩
  · simpa using memRead_storeBytes hlen 0 x s
  · obtain ⟨m, hstore⟩ := storeBytes_eq bytes 0 s
    rw [hstore]
    exact ⟨rfl, ⟨rfl, rfl⟩, fun _ _ => rfl, fun _ _ => rfl, fun _ _ => rfl, rfl, rfl⟩

end Sys2Proof.Machine
end

section
/-! PROOFS. Scope (spec file 40, section 2): RUN (R153, R155).

RUN looks at the step from the state it has reached: it ends, pauses, or goes on. A run that goes on for `k`
steps after the first goes on for `k + 1`, so how a run comes to rest carries over from the state after its
first step. -/

namespace Sys2Proof.Machine

/-! ## Runs that go on -/

theorem runGoesOnFor_zero (s : State) : RunGoesOnFor 0 s := fun _ hj => absurd hj (Nat.not_lt_zero _)

theorem RunGoesOnFor.succ {n : Nat} {s t : State} (h : RunGoesOnFor n t) (hs : RunGoesOn s)
    (hstep : step s = .next t) : RunGoesOnFor (n + 1) s := by
  intro j hj
  cases j with
  | zero => exact ⟨s, rfl, hs⟩
  | succ j =>
    obtain ⟨u, hsteps, hgo⟩ := h j (Nat.lt_of_succ_lt_succ hj)
    exact ⟨u, (steps_succ hstep j).trans hsteps, hgo⟩

/-- Within its first `n` steps RUN from `s` reaches a state with `P`, and goes on at every state before it. -/
def GoesOnUntil (n : Nat) (s : State) (P : State → Prop) : Prop :=
  ∃ k u, k < n ∧ RunGoesOnFor k s ∧ steps k s = .next u ∧ P u

theorem goesOnUntil_first {n : Nat} {s : State} {P : State → Prop} (h : P s) : GoesOnUntil (n + 1) s P :=
  ⟨0, s, n.succ_pos, runGoesOnFor_zero s, rfl, h⟩

theorem GoesOnUntil.succ {n : Nat} {s t : State} {P : State → Prop} (h : GoesOnUntil n t P) (hs : RunGoesOn s)
    (hstep : step s = .next t) : GoesOnUntil (n + 1) s P := by
  obtain ⟨k, u, hk, hfor, hsteps, hP⟩ := h
  exact ⟨k + 1, u, Nat.succ_lt_succ hk, hfor.succ hs hstep, (steps_succ hstep k).trans hsteps, hP⟩

/-! ## What RUN does at one step -/

theorem hostRun_succ {s t : State} (hstep : step s = .next t) (n : Nat) :
    s.hostRun (n + 1) =
      if s.nextOpcode = 0 then .halted t else if t.flag .t = true then .paused t else t.hostRun n := by
  rw [State.hostRun, State.hostStep, hstep]
  rfl

theorem halted_of_nextOpcode_eq_zero {s t : State} (hop : s.nextOpcode = 0) (hstep : step s = .next t) :
    t.halted = true := by
  cases (step_of_nextOpcode_eq_zero hop).symm.trans hstep
  exact (nextOpcode_eq_zero_iff s).mp hop

/-- Settles O40, by induction on the bound: at its first step a run ends, or pauses, or comes to rest as the run
from the next state does, one step later. -/
theorem runIsRepeatedStep : Obligations.RunIsRepeatedStep := by
  unfold Obligations.RunIsRepeatedStep
  intro n
  induction n with
  | zero => exact fun s => ⟨rfl, runGoesOnFor_zero s⟩
  | succ n ih =>
    intro s
    obtain ⟨t, hstep⟩ := step_next s
    rw [hostRun_succ hstep]
    by_cases hop : s.nextOpcode = 0
    · rw [if_pos hop]
      exact goesOnUntil_first ⟨hop, hstep, halted_of_nextOpcode_eq_zero hop hstep⟩
    rw [if_neg hop]
    by_cases htrap : t.flag .t = true
    · rw [if_pos htrap]
      exact goesOnUntil_first ⟨hop, hstep, htrap⟩
    rw [if_neg htrap]
    have hgo : RunGoesOn s := ⟨hop, t, hstep, Bool.eq_false_of_not_eq_true htrap⟩
    have hrest := ih t
    cases hrun : t.hostRun n with
    | stopped u =>
      rw [hrun] at hrest
      obtain ⟨hsteps, hfor⟩ := hrest
      exact ⟨(steps_succ hstep n).trans hsteps, hfor.succ hgo hstep⟩
    | paused u | halted u =>
      rw [hrun] at hrest
      exact GoesOnUntil.succ hrest hgo hstep
    | stuck =>
      rw [hrun] at hrest
      exact hrest

end Sys2Proof.Machine
end

section
/-! PROOFS. Scope (spec file 41): data movement (R160 to R166).

Every instruction of the file is a chain of updates, and PC moves on at its end. The frame of the chain grows with
it, one lemma per update, in the order of the rule's pseudocode; the last link moves PC. -/

namespace Sys2Proof.Machine

/-! ## The frame of an instruction before PC moves on -/

/-- What `KeptBut` says, and PC, SP and BP are as before. -/
def FrameBut (fls : List Flag) (rs : List Reg8) (x? : Option Word) (is : List Byte) (s t : State) : Prop :=
  t.pc = s.pc ∧ PointersKept s t ∧ KeptBut fls rs x? is s t

section
variable {fls : List Flag} {rs : List Reg8} {x? : Option Word} {is : List Byte} {s t : State}

theorem frameBut_refl (s : State) : FrameBut fls rs x? is s s :=
  ⟨rfl, ⟨rfl, rfl⟩, fun _ _ => rfl, fun _ _ => rfl, fun _ _ => rfl, fun _ _ => rfl, rfl, rfl⟩

/-- A destination is written first, so it is the location that the state of before names. -/
theorem frameBut_writeLoc (s : State) {o : Loc8} (v : Byte) (ho : locRegs o ⊆ rs) :
    FrameBut fls rs (s.locMemAddr o) (s.locStackIndex o).toList s (s.writeLoc o v) :=
  ⟨s.writeLoc_pc o v, ⟨s.writeLoc_sp o v, s.writeLoc_bp o v⟩, fun q _ => s.flag_writeLoc o v q,
    fun r hr => regsKeptBut_writeLoc s o v r fun h => hr (ho h), memKeptBut_writeLoc s o v,
    stackKeptBut_writeLoc s o v, ownKept_writeLoc s o v⟩

theorem FrameBut.setFlag (h : FrameBut fls rs x? is s t) (p : Flag) (v : Bool) (hp : p ∈ fls := by simp) :
    FrameBut fls rs x? is s (t.setFlag p v) := by
  obtain ⟨hpc, hptr, hflags, hregs, hmem, hstack, hown⟩ := h
  refine ⟨hpc, hptr, fun q hq => ?_, hregs, hmem, hstack, hown⟩
  rw [State.flag_setFlag, if_neg (ne_of_mem_of_not_mem hp hq).symm, hflags q hq]

theorem FrameBut.setZS8 (h : FrameBut fls rs x? is s t) (v : Byte) (hz : .z ∈ fls := by simp)
    (hs : .s ∈ fls := by simp) : FrameBut fls rs x? is s (t.setZS8 v) :=
  (h.setFlag .z _ hz).setFlag .s _ hs

theorem FrameBut.setReg (h : FrameBut fls rs x? is s t) (r : Reg8) (v : Byte) (hr : r ∈ rs := by simp) :
    FrameBut fls rs x? is s (t.setReg r v) := by
  obtain ⟨hpc, ⟨hsp, hbp⟩, hflags, hregs, hmem, hstack, ⟨hparams, hdraws⟩⟩ := h
  refine ⟨(t.setReg_pc r v).trans hpc, ⟨(t.setReg_sp r v).trans hsp, (t.setReg_bp r v).trans hbp⟩,
    fun q hq => (t.flag_setReg r v q).trans (hflags q hq), fun q hq => ?_,
    fun x hx => (memRead_setReg t r v x).trans (hmem x hx),
    fun i hi => (stackRead_setReg t r v i).trans (hstack i hi),
    (t.setReg_params r v).trans hparams, (t.setReg_draws r v).trans hdraws⟩
  rw [reg_setReg, if_neg (ne_of_mem_of_not_mem hr hq).symm, hregs q hq]

theorem FrameBut.setA (h : FrameBut fls rs x? is s t) (v : Byte) (ha : .a ∈ rs := by simp) :
    FrameBut fls rs x? is s (t.setA v) :=
  h.setReg .a v ha

theorem FrameBut.setHL (h : FrameBut fls rs x? is s t) (v : Word) (hh : .h ∈ rs := by simp)
    (hl : .l ∈ rs := by simp) : FrameBut fls rs x? is s (t.setHL v) :=
  (h.setReg .h (hiByte v) hh).setReg .l (loByte v) hl

/-- `PC <- next` ends the chain (R143). -/
theorem FrameBut.advance (h : FrameBut fls rs x? is s t) (i : Instr) :
    NextAfter i s (t.advance i.length) ∧ PointersKept s (t.advance i.length) ∧
      KeptBut fls rs x? is s (t.advance i.length) := by
  obtain ⟨hpc, hptr, hkept⟩ := h
  refine ⟨?_, hptr, hkept⟩
  rw [NextAfter, ← hpc]
  exact pcPlus_toNat t i.length

end

/-! ## What the updates set -/

theorem zs8Of_setZS8 (s : State) (v : Byte) : ZS8Of (s.setZS8 v) v :=
  ⟨State.flag_setZS8 s v .z, State.flag_setZS8 s v .s⟩

/-- Z, S and PC are in no operand's location. -/
theorem LocHolds.setZS8_advance {s t : State} {o : Loc8} {v : Byte} (h : LocHolds s t o v) (w : Byte) (n : Nat) :
    LocHolds s ((t.setZS8 w).advance n) o v :=
  h.congr (fun _ => rfl) rfl rfl

theorem LocHolds.setReg {s t : State} {o : Loc8} {v : Byte} (h : LocHolds s t o v) {r : Reg8} (w : Byte)
    (ho : o ≠ .reg r) : LocHolds s (t.setReg r w) o v := by
  cases o with
  | reg q =>
    have hq : q ≠ r := fun e => ho (congrArg Loc8.reg e)
    exact (reg_setReg t r q w).trans ((if_neg hq).trans h)
  | abs _ | hlInd | lInd => exact (memRead_setReg t r w _).trans h
  | frame d => exact (stackRead_setReg t r w _).trans h

/-! ## The forms of STORE and XCH -/

theorem Loc8.ne_reg_a_of_okXch {o : Loc8} (h : o.okXch = true) : o ≠ .reg .a := by
  rintro rfl; cases h

/-- The forms of STORE are those of XCH without the frame slot (R162). -/
theorem Loc8.okXch_of_okStore {o : Loc8} (h : o.okStore = true) : o.okXch = true := by
  cases o with
  | frame d => cases h
  | _ => exact h

/-- STORE never writes STACK (C6). -/
theorem locStackIndex_of_okStore (s : State) {o : Loc8} (h : o.okStore = true) : s.locStackIndex o = none := by
  cases o with
  | frame d => cases h
  | _ => rfl

/-! ## The instructions -/

/-- Settles O1: LOAD sets A and describes it by Z and S. -/
theorem loadCopiesOperandToAccumulator : Obligations.LoadCopiesOperandToAccumulator := by
  unfold Obligations.LoadCopiesOperandToAccumulator
  refine ⟨⟨fun _ _ _ => ⟨rfl, rfl, rfl, rfl, rfl, rfl, rfl, rfl⟩, fun _ _ _ => rfl⟩, fun o s _ => ?_⟩
  exact ⟨_, rfl, rfl, zs8Of_setZS8 (s.setA (s.src8 o)) (s.src8 o),
    (((frameBut_refl s).setA _).setZS8 _).advance (.load o)⟩

/-- Settles O2: the two flags are written one after the other, and S leaves Z as it is. -/
theorem clraClearsAccumulator : Obligations.ClraClearsAccumulator := by
  unfold Obligations.ClraClearsAccumulator
  refine ⟨fun _ _ _ => rfl, fun s => ?_⟩
  have hflag : ∀ q, (((s.setA 0).setFlag .z true).setFlag .s false).flag q =
      if q = .s then false else if q = .z then true else (s.setA 0).flag q :=
    fun q => by rw [State.flag_setFlag, State.flag_setFlag]
  exact ⟨_, rfl, rfl, hflag .z, hflag .s,
    ((((frameBut_refl s).setA 0).setFlag .z true).setFlag .s false).advance .clra⟩

/-- Settles O3: STORE writes one location, never A, and describes A by Z and S. -/
theorem storeWritesAccumulatorToItsLocationOnly : Obligations.StoreWritesAccumulatorToItsLocationOnly := by
  unfold Obligations.StoreWritesAccumulatorToItsLocationOnly
  refine ⟨fun _ _ _ => ⟨rfl, rfl, rfl, rfl, rfl, rfl, rfl⟩, fun o s hwf => ?_⟩
  have ha : (s.writeLoc o s.a).a = s.a :=
    (reg_writeLoc s o s.a .a).trans (if_neg (Loc8.ne_reg_a_of_okXch (Loc8.okXch_of_okStore hwf)))
  have hframe := frameBut_writeLoc (fls := [.z, .s]) s (o := o) s.a (List.Subset.refl _)
  rw [locStackIndex_of_okStore s hwf] at hframe
  exact ⟨_, rfl, (locHolds_writeLoc s o s.a).setZS8_advance _ _, ha, zs8Of_setZS8 _ s.a,
    (hframe.setZS8 s.a).advance (.store o)⟩

/-- Settles O4: A is no location of XCH, so the location keeps the old A when A takes the old byte. -/
theorem xchSwapsAccumulatorWithItsLocation : Obligations.XchSwapsAccumulatorWithItsLocation := by
  unfold Obligations.XchSwapsAccumulatorWithItsLocation
  refine ⟨⟨fun _ _ _ => ⟨rfl, rfl, rfl, rfl, rfl, rfl, rfl⟩, fun _ _ _ => rfl⟩, fun o s hwf => ?_⟩
  have hloc : LocHolds s ((s.writeLoc o s.a).setA (s.readLoc o)) o s.a :=
    (locHolds_writeLoc s o s.a).setReg _ (Loc8.ne_reg_a_of_okXch hwf)
  exact ⟨_, rfl, rfl, hloc.setZS8_advance _ _, zs8Of_setZS8 _ (s.readLoc o),
    (((frameBut_writeLoc s s.a (List.subset_cons_self _ _)).setA _).setZS8 _).advance (.xch o)⟩

/-- Settles O5: the sums are those of words and bytes, and nothing but HL, or L, is set. -/
theorem syntheticAddressInstructionsWriteHLOnly : Obligations.SyntheticAddressInstructionsWriteHLOnly := by
  unfold Obligations.SyntheticAddressInstructionsWriteHLOnly
  refine ⟨fun _ _ _ => ⟨rfl, rfl, rfl⟩, fun v s => ?_, fun v s => ?_, fun v s => ?_⟩
  · exact ⟨_, rfl, hl_setHL s v, ((frameBut_refl s).setHL v).advance (.ldhlI16 v)⟩
  · have hsum : (s.setHL (s.hl + v)).hl.toNat = (s.hl.toNat + v.toNat) % 65536 := by
      rw [hl_setHL, BitVec.toNat_add]
    exact ⟨_, rfl, hsum, ((frameBut_refl s).setHL _).advance (.addhlI16 v)⟩
  · exact ⟨_, rfl, BitVec.toNat_add s.l v, ((frameBut_refl s).setReg .l _).advance (.addlI8 v)⟩

end Sys2Proof.Machine
end

section
/-! PROOFS. Scope (spec file 42): the accumulator ALU (R180 to R187).

Every instruction of the file but CMP ends with a result in A that Z and S describe; the sums and differences
write C before. So their frame is one chain of updates, and what is left is the arithmetic of the result. -/

namespace Sys2Proof.Machine

/-! ## The opcode rows (R96) -/

/-- The decoder reads selectors 0 to 7 of a row, and its frame form, by the ALU column of R94. -/
theorem aluRows_decode :
    FullAluRowDecodes .add 0x40 0xD0 ∧ FullAluRowDecodes .adc 0x48 0xD1 ∧
    FullAluRowDecodes .sub 0x50 0xD2 ∧ FullAluRowDecodes .sbc 0x58 0xD3 ∧
    FullAluRowDecodes .and 0x60 0xD4 ∧ FullAluRowDecodes .or 0x68 0xD5 ∧
    FullAluRowDecodes .xor 0x70 0xD6 ∧ FullAluRowDecodes .cmp 0x78 0xD7 := by
  refine ⟨?_, ?_, ?_, ?_, ?_, ?_, ?_, ?_⟩ <;>
    exact ⟨fun _ _ _ => rfl, fun _ _ _ => ⟨rfl, rfl, rfl, rfl, rfl, rfl, rfl, rfl⟩⟩

/-! ## Sums and differences as numbers -/

theorem bitNat_eq_toNat (v : Bool) : bitNat v = v.toNat := by cases v <;> rfl

theorem addResult_toNat (a v : Byte) (cin : Bool) :
    (addResult a v cin).toNat = (a.toNat + v.toNat + cin.toNat) % 256 := by
  rw [addResult, BitVec.toNat_ofNat, bitNat_eq_toNat]

theorem addCarry_eq_decide (a v : Byte) (cin : Bool) :
    addCarry a v cin = decide (a.toNat + v.toNat + cin.toNat > 255) := by
  rw [addCarry, bitNat_eq_toNat]

theorem subResult_toNat (a v : Byte) (bin : Bool) :
    ((subResult a v bin).toNat : Int) = ((a.toNat : Int) - v.toNat - bin.toNat) % 256 := by
  have hbin := Bool.toNat_le bin
  rw [subResult, bitNat_eq_toNat, BitVec.toNat_sub, BitVec.toNat_sub, BitVec.toNat_ofNat]
  omega

theorem subBorrow_eq_decide (a v : Byte) (bin : Bool) :
    subBorrow a v bin = decide (a.toNat < v.toNat + bin.toNat) := by
  rw [subBorrow, bitNat_eq_toNat]

theorem subResult_false (a v : Byte) : subResult a v false = a - v := BitVec.sub_zero (a - v)

theorem subResult_false_toNat (a v : Byte) :
    ((subResult a v false).toNat : Int) = ((a.toNat : Int) - v.toNat) % 256 := by
  simpa using subResult_toNat a v false

/-- The bit that S takes is the sign of the byte. -/
theorem getLsbD_seven_eq_decide (v : Byte) : v.getLsbD 7 = decide (v.toNat ≥ 128) :=
  (BitVec.msb_eq_getLsbD_last v).symm.trans (BitVec.msb_eq_decide v)

/-! ## A result in A -/

theorem FrameBut.setAZS {fls : List Flag} {rs : List Reg8} {x? : Option Word} {is : List Byte} {s t : State}
    (h : FrameBut fls rs x? is s t) (r : Byte) (hz : .z ∈ fls := by simp) (hs : .s ∈ fls := by simp)
    (ha : .a ∈ rs := by simp) : FrameBut fls rs x? is s (t.setAZS r) :=
  (h.setA r ha).setZS8 r hz hs

theorem zs8Of_setAZS (s : State) (r : Byte) : ZS8Of (s.setAZS r) r := zs8Of_setZS8 (s.setA r) r

/-- Z and S of a result leave the carry or borrow written before them. -/
theorem flag_c_setAZS_setFlag (s : State) (k : Bool) (r : Byte) : ((s.setFlag .c k).setAZS r).flag .c = k :=
  (State.flag_setZS8 _ r .c).trans (State.flag_setFlag s .c .c k)

/-- An instruction that puts a result in A and a carry or borrow in C. -/
theorem carryResult_frame (s : State) (k : Bool) (r : Byte) (i : Instr) :
    let t := ((s.setFlag .c k).setAZS r).advance i.length
    ZS8Of t t.a ∧ NextAfter i s t ∧ PointersKept s t ∧ KeptBut [.c, .z, .s] [.a] none [] s t :=
  ⟨zs8Of_setAZS _ r, (((frameBut_refl s).setFlag .c k).setAZS r).advance i⟩

/-- An instruction that puts a result in A and keeps C (D11). -/
theorem result_frame (s : State) (r : Byte) (i : Instr) :
    let t := (s.setAZS r).advance i.length
    ZS8Of t t.a ∧ NextAfter i s t ∧ PointersKept s t ∧ KeptBut [.z, .s] [.a] none [] s t :=
  ⟨zs8Of_setAZS _ r, ((frameBut_refl s).setAZS r).advance i⟩

/-! ## The instructions -/

/-- Settles O6: ADD is the sum without a carry in. -/
theorem addStoresTheSumAndSetsCarryOnOverflow : Obligations.AddStoresTheSumAndSetsCarryOnOverflow := by
  unfold Obligations.AddStoresTheSumAndSetsCarryOnOverflow
  obtain ⟨hadd, -⟩ := aluRows_decode
  refine ⟨hadd, fun o s _ => ⟨_, rfl, ?_, ?_, carryResult_frame s _ _ (.add o)⟩⟩
  · exact addResult_toNat s.a (s.src8 o) false
  · exact (flag_c_setAZS_setFlag s _ _).trans (addCarry_eq_decide s.a (s.src8 o) false)

/-- Settles O7: SUB is the difference without a borrow in. -/
theorem subStoresTheDifferenceAndSetsBorrow : Obligations.SubStoresTheDifferenceAndSetsBorrow := by
  unfold Obligations.SubStoresTheDifferenceAndSetsBorrow
  obtain ⟨-, -, hsub, -⟩ := aluRows_decode
  refine ⟨hsub, fun o s _ => ⟨_, rfl, ?_, ?_, carryResult_frame s _ _ (.sub o)⟩⟩
  · exact subResult_false_toNat s.a (s.src8 o)
  · exact (flag_c_setAZS_setFlag s _ _).trans (subBorrow_eq_decide s.a (s.src8 o) false)

/-- Settles O8: the carry in and the borrow in are the C of the state before. -/
theorem adcAddsAndSbcSubtractsTheCarryFlag : Obligations.AdcAddsAndSbcSubtractsTheCarryFlag := by
  unfold Obligations.AdcAddsAndSbcSubtractsTheCarryFlag
  obtain ⟨-, hadc, -, hsbc, -⟩ := aluRows_decode
  refine ⟨⟨hadc, hsbc⟩, fun o s _ => ⟨_, rfl, ?_, ?_, carryResult_frame s _ _ (.adc o)⟩,
    fun o s _ => ⟨_, rfl, ?_, ?_, carryResult_frame s _ _ (.sbc o)⟩⟩
  · exact addResult_toNat s.a (s.src8 o) (s.flag .c)
  · exact (flag_c_setAZS_setFlag s _ _).trans (addCarry_eq_decide s.a (s.src8 o) (s.flag .c))
  · exact subResult_toNat s.a (s.src8 o) (s.flag .c)
  · exact (flag_c_setAZS_setFlag s _ _).trans (subBorrow_eq_decide s.a (s.src8 o) (s.flag .c))

/-- Settles O9: the operations are those of bit vectors, bit by bit. -/
theorem logicInstructionsCombineBitsAndKeepCarry : Obligations.LogicInstructionsCombineBitsAndKeepCarry := by
  unfold Obligations.LogicInstructionsCombineBitsAndKeepCarry
  obtain ⟨-, -, -, -, hand, hor, hxor, -⟩ := aluRows_decode
  refine ⟨⟨hand, hor, hxor⟩, fun o s _ => ⟨?_, ?_, ?_⟩⟩
  · exact ⟨_, rfl, fun _ => BitVec.getLsbD_and, result_frame s _ (.and o)⟩
  · exact ⟨_, rfl, fun _ => BitVec.getLsbD_or, result_frame s _ (.or o)⟩
  · exact ⟨_, rfl, fun _ => BitVec.getLsbD_xor, result_frame s _ (.xor o)⟩

/-- Settles O10: CMP describes the difference of SUB by Z and S, and writes it nowhere. -/
theorem cmpSetsZeroAndSignOfTheDifferenceOnly : Obligations.CmpSetsZeroAndSignOfTheDifferenceOnly := by
  unfold Obligations.CmpSetsZeroAndSignOfTheDifferenceOnly
  obtain ⟨-, -, -, -, -, -, -, hcmp⟩ := aluRows_decode
  refine ⟨hcmp, fun o s _ => ?_⟩
  obtain ⟨hz, hs⟩ := zs8Of_setZS8 s (subResult s.a (s.src8 o) false)
  have hzero : subResult s.a (s.src8 o) false = 0 ↔ s.a = s.src8 o := by
    rw [subResult_false]
    exact sub_eq_zero
  refine ⟨_, rfl, hz.trans (decide_eq_decide.mpr hzero), hs.trans ?_,
    ((frameBut_refl s).setZS8 _).advance (.cmp o)⟩
  rw [getLsbD_seven_eq_decide, ← subResult_false_toNat]
  exact decide_eq_decide.mpr Int.ofNat_le.symm

end Sys2Proof.Machine
end

section
/-! PROOFS. Scope (spec file 43): the unary instructions (R200 to R207).

The eight meanings are one shape: a result goes back to where the operand came from, Z and S describe it, and INC
and DEC then write C. So each instruction is one of four updates (a location or HL, with or without C), and what is
left is the arithmetic of the result. -/

namespace Sys2Proof.Machine

/-! ## The opcode rows (R96) -/

/-- The decoder reads a row of the unary region, and its frame form, by the unary column of R94. -/
theorem unaryRows_decode :
    UnaryRowDecodes .inc 0xB0 0xDE ∧ UnaryRowDecodes .dec 0xB8 0xDF ∧
    UnaryRowDecodes .neg 0xC0 0xE0 ∧ UnaryRowDecodes .not 0xC8 0xE1 := by
  refine ⟨?_, ?_, ?_, ?_⟩ <;> exact fun _ _ _ => ⟨rfl, rfl, rfl, rfl, rfl, rfl, rfl, rfl⟩

/-! ## Results as numbers -/

/-- INC and DEC compare words; the rules compare numbers. -/
theorem beq_eq_decide_toNat {n : Nat} (v w : BitVec n) : (v == w) = decide (v.toNat = w.toNat) :=
  decide_eq_decide.mpr BitVec.toNat_inj.symm

/-- NOT is written as an exclusive or with all ones. -/
theorem xor_allOnes_toNat {n : Nat} (v : BitVec n) :
    (v ^^^ BitVec.allOnes n).toNat = 2 ^ n - 1 - v.toNat := by
  rw [BitVec.xor_allOnes, BitVec.toNat_not]

/-- DEC adds all ones, modulo the width. -/
theorem sub_one_toNat {n : Nat} (v : BitVec n) (hn : 0 < n) :
    (v - 1#n).toNat = (v.toNat + (2 ^ n - 1)) % 2 ^ n := by
  rw [BitVec.toNat_sub, BitVec.toNat_one hn, Nat.add_comm]

/-! ## What the updates set -/

theorem zs16Of_setZS16 (s : State) (v : Word) : ZS16Of (s.setZS16 v) v :=
  ⟨State.flag_setZS16 s v .z, State.flag_setZS16 s v .s⟩

/-- C is written after Z and S, and leaves them. -/
theorem ZS8Of.setFlag_c {t : State} {v : Byte} (h : ZS8Of t v) (k : Bool) : ZS8Of (t.setFlag .c k) v := by
  obtain ⟨hz, hs⟩ := h
  exact ⟨(State.flag_setFlag t .c .z k).trans hz, (State.flag_setFlag t .c .s k).trans hs⟩

theorem ZS16Of.setFlag_c {t : State} {v : Word} (h : ZS16Of t v) (k : Bool) : ZS16Of (t.setFlag .c k) v := by
  obtain ⟨hz, hs⟩ := h
  exact ⟨(State.flag_setFlag t .c .z k).trans hz, (State.flag_setFlag t .c .s k).trans hs⟩

/-! ## A result in the operand's location -/

section
variable (s : State) (o : Loc8) (r : Byte) (i : Instr)

theorem frameBut_setLocZS {fls : List Flag} (hz : .z ∈ fls := by simp) (hs : .s ∈ fls := by simp) :
    FrameBut fls (locRegs o) (s.locMemAddr o) (s.locStackIndex o).toList s (s.setLocZS o r) :=
  (frameBut_writeLoc s r (List.Subset.refl _)).setZS8 r hz hs

/-- An instruction that replaces its operand and keeps C (D11). -/
theorem locResult_frame :
    let t := (s.setLocZS o r).advance i.length
    LocHolds s t o r ∧ ZS8Of t r ∧ NextAfter i s t ∧ PointersKept s t ∧
      KeptBut [.z, .s] (locRegs o) (s.locMemAddr o) (s.locStackIndex o).toList s t :=
  ⟨(locHolds_writeLoc s o r).congr (fun _ => rfl) rfl rfl, zs8Of_setZS8 _ r, (frameBut_setLocZS s o r).advance i⟩

/-- An instruction that replaces its operand and then writes C. -/
theorem locCarryResult_frame (k : Bool) :
    let t := ((s.setLocZS o r).setFlag .c k).advance i.length
    LocHolds s t o r ∧ ZS8Of t r ∧ t.flag .c = k ∧ NextAfter i s t ∧ PointersKept s t ∧
      KeptBut [.c, .z, .s] (locRegs o) (s.locMemAddr o) (s.locStackIndex o).toList s t :=
  ⟨(locHolds_writeLoc s o r).congr (fun _ => rfl) rfl rfl, (zs8Of_setZS8 _ r).setFlag_c k,
    State.flag_setFlag _ .c .c k, ((frameBut_setLocZS s o r).setFlag .c k).advance i⟩

end

/-! ## A result in HL -/

section
variable (s : State) (r : Word) (i : Instr)

theorem frameBut_setHLZS {fls : List Flag} (hz : .z ∈ fls := by simp) (hs : .s ∈ fls := by simp) :
    FrameBut fls [.h, .l] none [] s (s.setHLZS r) :=
  (((frameBut_refl s).setHL r).setFlag .z _ hz).setFlag .s _ hs

theorem zs16Of_setHLZS : ZS16Of (s.setHLZS r) (s.setHLZS r).hl := by
  have hhl : (s.setHLZS r).hl = r := hl_setHL s r
  rw [hhl]
  exact zs16Of_setZS16 (s.setHL r) r

/-- An instruction that replaces HL and keeps C (D11). -/
theorem hlResult_frame :
    let t := (s.setHLZS r).advance i.length
    ZS16Of t t.hl ∧ NextAfter i s t ∧ PointersKept s t ∧ KeptBut [.z, .s] [.h, .l] none [] s t :=
  ⟨zs16Of_setHLZS s r, (frameBut_setHLZS s r).advance i⟩

/-- An instruction that replaces HL and then writes C (D15). -/
theorem hlCarryResult_frame (k : Bool) :
    let t := ((s.setHLZS r).setFlag .c k).advance i.length
    ZS16Of t t.hl ∧ t.flag .c = k ∧ NextAfter i s t ∧ PointersKept s t ∧
      KeptBut [.c, .z, .s] [.h, .l] none [] s t :=
  ⟨(zs16Of_setHLZS s r).setFlag_c k, State.flag_setFlag _ .c .c k,
    ((frameBut_setHLZS s r).setFlag .c k).advance i⟩

end

/-! ## The instructions -/

/-- Settles O11: the operand is read before its location is written, and C compares the value read. -/
theorem incAndDecStepTheirLocationAndSetCarryOnWrap :
    Obligations.IncAndDecStepTheirLocationAndSetCarryOnWrap := by
  unfold Obligations.IncAndDecStepTheirLocationAndSetCarryOnWrap
  obtain ⟨hinc, hdec, -⟩ := unaryRows_decode
  refine ⟨⟨hinc, hdec⟩, fun o s _ => ?_, fun o s _ => ?_⟩
  · obtain ⟨hloc, hzs, hc, hframe⟩ :=
      locCarryResult_frame s o (s.readLoc o + 1) (.inc o) (s.readLoc o == 0xFF)
    exact ⟨_, _, rfl, BitVec.toNat_add _ 1, hloc, hzs, hc.trans (beq_eq_decide_toNat _ 0xFF), hframe⟩
  · obtain ⟨hloc, hzs, hc, hframe⟩ :=
      locCarryResult_frame s o (s.readLoc o - 1) (.dec o) (s.readLoc o == 0)
    exact ⟨_, _, rfl, sub_one_toNat _ (by decide), hloc, hzs, hc.trans (beq_eq_decide_toNat _ 0), hframe⟩

/-- Settles O12: neither instruction writes C after the result. -/
theorem negAndNotReplaceTheirLocationAndKeepCarry : Obligations.NegAndNotReplaceTheirLocationAndKeepCarry := by
  unfold Obligations.NegAndNotReplaceTheirLocationAndKeepCarry
  obtain ⟨-, -, hneg, hnot⟩ := unaryRows_decode
  refine ⟨⟨hneg, hnot⟩, fun o s _ => ?_, fun o s _ => ?_⟩
  · exact ⟨_, _, rfl, BitVec.toNat_neg _, locResult_frame s o _ (.neg o)⟩
  · exact ⟨_, _, rfl, xor_allOnes_toNat _, locResult_frame s o _ (.not o)⟩

/-- Settles O13: H and L are written together, so HL reads back as the result that Z and S describe. -/
theorem unaryHLFormsWriteThePairAndItsFlags : Obligations.UnaryHLFormsWriteThePairAndItsFlags := by
  unfold Obligations.UnaryHLFormsWriteThePairAndItsFlags
  refine ⟨fun _ _ _ => ⟨rfl, rfl, rfl, rfl⟩, fun s => ?_⟩
  have hhl (r : Word) : (s.setHL r).hl.toNat = r.toNat := congrArg BitVec.toNat (hl_setHL s r)
  refine ⟨?_, ?_, ?_, ?_⟩
  · obtain ⟨hzs, hc, hframe⟩ := hlCarryResult_frame s (s.hl + 1) .incHL (s.hl == 0xFFFF)
    exact ⟨_, rfl, (hhl _).trans (BitVec.toNat_add _ 1), hzs, hc.trans (beq_eq_decide_toNat _ 0xFFFF), hframe⟩
  · obtain ⟨hzs, hc, hframe⟩ := hlCarryResult_frame s (s.hl - 1) .decHL (s.hl == 0)
    exact ⟨_, rfl, (hhl _).trans (sub_one_toNat _ (by decide)), hzs, hc.trans (beq_eq_decide_toNat _ 0), hframe⟩
  · exact ⟨_, rfl, (hhl _).trans (BitVec.toNat_neg _), hlResult_frame s _ .negHL⟩
  · exact ⟨_, rfl, (hhl _).trans (xor_allOnes_toNat _), hlResult_frame s _ .notHL⟩

end Sys2Proof.Machine
end

section
/-! PROOFS. Scope (spec file 44): shifts, rotates, minimum and maximum (R220 to R225).

Every instruction of the file puts its result in A, describes it by Z and S and keeps C, which is `result_frame` of
the ALU. What is left is the result itself: a product or quotient by a power of two for the shifts, a place for each
bit for the rotates, one of the two bytes for MIN and MAX. -/

namespace Sys2Proof.Machine

/-! ## The opcode rows (R96) -/

/-- The shifts and rotates have selectors 1 to 7 and the frame form; selector 0 of their rows is unassigned (C2). -/
theorem shiftRows_decode :
    AluRowDecodes .shl 0x90 0xDA ∧ AluRowDecodes .shr 0x98 0xDB ∧
    AluRowDecodes .rol 0xA0 0xDC ∧ AluRowDecodes .ror 0xA8 0xDD := by
  refine ⟨?_, ?_, ?_, ?_⟩ <;> exact fun _ _ _ => ⟨rfl, rfl, rfl, rfl, rfl, rfl, rfl, rfl⟩

/-- MIN and MAX have selector 0 as well, the accumulator. -/
theorem minMaxRows_decode : FullAluRowDecodes .min 0x80 0xD8 ∧ FullAluRowDecodes .max 0x88 0xD9 := by
  refine ⟨?_, ?_⟩ <;> exact ⟨fun _ _ _ => rfl, fun _ _ _ => ⟨rfl, rfl, rfl, rfl, rfl, rfl, rfl, rfl⟩⟩

/-! ## Shifts as numbers -/

theorem shiftLeft_shiftCount_toNat (a v : Byte) :
    (a <<< shiftCount v).toNat = (a.toNat * 2 ^ (v.toNat % 8)) % 256 := by
  rw [BitVec.toNat_shiftLeft, Nat.shiftLeft_eq, shiftCount]

theorem ushiftRight_shiftCount_toNat (a v : Byte) :
    (a >>> shiftCount v).toNat = a.toNat / 2 ^ (v.toNat % 8) := by
  rw [BitVec.toNat_ushiftRight, Nat.shiftRight_eq_div_pow, shiftCount]

/-! ## Rotates bit by bit -/

/-- The two shifts of R222 are the library's rotation, which reduces its count modulo the width. -/
theorem rolByte_shiftCount (a v : Byte) : rolByte a (shiftCount v) = a.rotateLeft v.toNat := rfl

/-- The two shifts of R223 are the library's rotation, which reduces its count modulo the width. -/
theorem rorByte_shiftCount (a v : Byte) : rorByte a (shiftCount v) = a.rotateRight v.toNat := rfl

/-- Bit `k` goes up by the count, and comes back at the bottom when it leaves the byte. -/
theorem getLsbD_rolByte (a v : Byte) {k : Nat} (hk : k < 8) :
    (rolByte a (shiftCount v)).getLsbD ((k + v.toNat) % 8) = a.getLsbD k := by
  rw [rolByte_shiftCount, BitVec.getLsbD_rotateLeft]
  by_cases hwrap : (k + v.toNat) % 8 < v.toNat % 8
  · have hsource : 8 - v.toNat % 8 + (k + v.toNat) % 8 = k := by omega
    rw [decide_eq_true hwrap, cond_true, hsource]
  · have hsource : (k + v.toNat) % 8 - v.toNat % 8 = k := by omega
    have hin : (k + v.toNat) % 8 < 8 := Nat.mod_lt _ (by decide)
    rw [decide_eq_false hwrap, cond_false, hsource, decide_eq_true hin, Bool.true_and]

/-- Bit `k` comes from above by the count, and from the bottom when that is past the byte. -/
theorem getLsbD_rorByte (a v : Byte) {k : Nat} (hk : k < 8) :
    (rorByte a (shiftCount v)).getLsbD k = a.getLsbD ((k + v.toNat) % 8) := by
  rw [rorByte_shiftCount, BitVec.getLsbD_rotateRight]
  by_cases hinside : k < 8 - v.toNat % 8
  · have hsource : v.toNat % 8 + k = (k + v.toNat) % 8 := by omega
    rw [decide_eq_true hinside, cond_true, hsource]
  · have hsource : k - (8 - v.toNat % 8) = (k + v.toNat) % 8 := by omega
    rw [decide_eq_false hinside, cond_false, hsource, decide_eq_true hk, Bool.true_and]

/-! ## The smaller and the larger byte -/

/-- R224 replaces A only by a smaller byte. -/
theorem ite_lt_toNat_eq_min (a v : Byte) :
    (if v.toNat < a.toNat then v else a).toNat = Nat.min a.toNat v.toNat := by
  split
  next hlt => exact (Nat.min_eq_right hlt.le).symm
  next hge => exact (Nat.min_eq_left (not_lt.mp hge)).symm

/-- R225 replaces A only by a larger byte. -/
theorem ite_gt_toNat_eq_max (a v : Byte) :
    (if a.toNat < v.toNat then v else a).toNat = Nat.max a.toNat v.toNat := by
  split
  next hlt => exact (Nat.max_eq_right hlt.le).symm
  next hge => exact (Nat.max_eq_left (not_lt.mp hge)).symm

/-! ## The instructions -/

/-- Settles O14: the shifts are arithmetic by a power of two, and the rotates move every bit within the byte. -/
theorem shiftsAndRotatesMoveEachBitByTheLowThreeBits :
    Obligations.ShiftsAndRotatesMoveEachBitByTheLowThreeBits := by
  unfold Obligations.ShiftsAndRotatesMoveEachBitByTheLowThreeBits
  refine ⟨shiftRows_decode, fun o s _ => ⟨?_, ?_, ?_, ?_⟩⟩
  · exact ⟨_, rfl, shiftLeft_shiftCount_toNat s.a (s.src8 o), result_frame s _ (.shl o)⟩
  · exact ⟨_, rfl, ushiftRight_shiftCount_toNat s.a (s.src8 o), result_frame s _ (.shr o)⟩
  · exact ⟨_, rfl, fun _ => getLsbD_rolByte s.a (s.src8 o), result_frame s _ (.rol o)⟩
  · exact ⟨_, rfl, fun _ => getLsbD_rorByte s.a (s.src8 o), result_frame s _ (.ror o)⟩

/-- Settles O15: A takes the operand just when that is the smaller, or the larger, of the two. -/
theorem minAndMaxCompareUnsigned : Obligations.MinAndMaxCompareUnsigned := by
  unfold Obligations.MinAndMaxCompareUnsigned
  refine ⟨minMaxRows_decode, fun o s _ => ⟨?_, ?_⟩⟩
  · exact ⟨_, rfl, ite_lt_toNat_eq_min s.a (s.src8 o), result_frame s _ (.min o)⟩
  · exact ⟨_, rfl, ite_gt_toNat_eq_max s.a (s.src8 o), result_frame s _ (.max o)⟩

end Sys2Proof.Machine
end

section
/-! PROOFS. Scope (spec file 45): the wide family (R240 to R244).

Every instruction of the file puts a word in HL, describes its high byte by Z and S (D19) and keeps C (D11). So the
frame is said once for any result, and what is left is the word itself as a number. ADDW and SUBW undo each other
because a wide operand is never in HL. -/

namespace Sys2Proof.Machine

/-! ## The opcode rows (R96) -/

/-- The wide family's selectors are A, B, C and imm8 (R92). -/
theorem wideRows_decode :
    WideRowDecodes .addw 0xE8 ∧ WideRowDecodes .subw 0xEC ∧ WideRowDecodes .mulw 0xF0 ∧
    WideRowDecodes .divw 0xF4 := by
  refine ⟨?_, ?_, ?_, ?_⟩ <;> exact fun _ _ _ => ⟨rfl, rfl, rfl, rfl⟩

/-! ## A result in HL whose high byte is described -/

section
variable (s : State) (r : Word)

theorem hl_setHLZSH_toNat : (s.setHLZSH r).hl.toNat = r.toNat := congrArg BitVec.toNat (hl_setHL s r)

/-- Z and S are written after HL, so the H they describe is the new one (D19). -/
theorem zs8Of_setHLZSH : ZS8Of (s.setHLZSH r) (s.setHLZSH r).h := zs8Of_setZS8 (s.setHL r) (hiByte r)

/-- A wide instruction whose new HL is the word `r`. -/
theorem wideResult_frame (i : Instr) :
    let t := (s.setHLZSH r).advance i.length
    ZS8Of t t.h ∧ NextAfter i s t ∧ PointersKept s t ∧ KeptBut [.z, .s] [.h, .l] none [] s t :=
  ⟨zs8Of_setHLZSH s r, (((frameBut_refl s).setHL r).setZS8 (hiByte r)).advance i⟩

end

/-! ## Results as numbers -/

/-- The source byte is extended by zeros (D18). -/
theorem srcWide_toNat (s : State) (o : Src8) : (s.srcWide o).toNat = (s.src8 o).toNat :=
  BitVec.toNat_setWidth_of_le (by decide)

theorem sub_toNat_eq_emod (v w : Word) : ((v - w).toNat : Int) = ((v.toNat : Int) - w.toNat) % 65536 := by
  rw [BitVec.toNat_sub]
  omega

theorem divwResult_toNat (p : Params) (hl v : Word) :
    (divwResult p hl v).toNat = if v.toNat = 0 then p.divwByZeroResult.toNat else hl.toNat / v.toNat := by
  have hzero : v = 0 ↔ v.toNat = 0 := BitVec.toNat_inj.symm
  rw [divwResult, apply_ite BitVec.toNat, BitVec.toNat_udiv]
  exact if_congr hzero rfl rfl

/-! ## The instructions -/

/-- Settles O16: the operations are those of words, which wrap at 65536. -/
theorem wideAddSubMulWrapAndFlagTheHighByte : Obligations.WideAddSubMulWrapAndFlagTheHighByte := by
  unfold Obligations.WideAddSubMulWrapAndFlagTheHighByte
  obtain ⟨haddw, hsubw, hmulw, -⟩ := wideRows_decode
  refine ⟨⟨haddw, hsubw, hmulw⟩, fun o s _ => ?_⟩
  rw [← srcWide_toNat s o]
  refine ⟨?_, ?_, ?_⟩
  · exact ⟨_, rfl, (hl_setHLZSH_toNat s _).trans (BitVec.toNat_add _ _), wideResult_frame s _ (.addw o)⟩
  · exact ⟨_, rfl, (congrArg Nat.cast (hl_setHLZSH_toNat s _)).trans (sub_toNat_eq_emod _ _),
      wideResult_frame s _ (.subw o)⟩
  · exact ⟨_, rfl, (hl_setHLZSH_toNat s _).trans (BitVec.toNat_mul _ _), wideResult_frame s _ (.mulw o)⟩

/-- Settles O17: a zero divisor only chooses another word for HL. -/
theorem divwDividesOrGivesTheParameter : Obligations.DivwDividesOrGivesTheParameter := by
  unfold Obligations.DivwDividesOrGivesTheParameter
  obtain ⟨-, -, -, hdivw⟩ := wideRows_decode
  refine ⟨hdivw, fun o s _ => ?_⟩
  rw [← srcWide_toNat s o]
  exact ⟨_, rfl, (hl_setHLZSH_toNat s _).trans (divwResult_toNat _ _ _), wideResult_frame s _ (.divw o)⟩

/-! ## SUBW after ADDW -/

/-- A wide operand is A, B, C or an immediate, so it reads the same after HL changed. -/
theorem src8_of_okWide {s t : State} (hregs : RegsKeptBut [.h, .l] s t) {o : Src8} (ho : o.okWide = true) :
    t.src8 o = s.src8 o := by
  cases o with
  | imm v => rfl
  | reg q =>
    refine hregs q ?_
    cases q with
    | a | b | c => decide
    | h | l => cases ho
  | abs _ | hlInd | lInd | frame _ => cases ho

/-- Settles O18: SUBW takes from the sum the value that ADDW put there, modulo 65536 both times. -/
theorem subwUndoesAddw : Obligations.SubwUndoesAddw := by
  unfold Obligations.SubwUndoesAddw
  intro o o' s hwf hwf' hvalue
  obtain ⟨-, hwide⟩ := wideAddSubMulWrapAndFlagTheHighByte
  obtain ⟨⟨t, haddw, hsum, -, -, -, -, hregs, -⟩, -, -⟩ := hwide o s hwf
  obtain ⟨-, ⟨u, hsubw, hdiff, -⟩, -⟩ := hwide o' t hwf'
  have hsource : t.src8 o' = s.src8 o := (src8_of_okWide hregs hwf').trans hvalue
  refine ⟨t, u, haddw, hsubw, BitVec.eq_of_toNat_eq ?_⟩
  rw [hsource, hsum] at hdiff
  have hlt := s.hl.isLt
  omega

end Sys2Proof.Machine
end

section
/-! PROOFS. Scope (spec file 46): control transfer (R260 to R270).

The jumps write PC and nothing else, so what is left of them is when they are taken. CALL is two pushes before PC is
written; RET and RET_I take PC from the two cells under SP, and only SP moves with it. -/

namespace Sys2Proof.Machine

/-! ## Writing PC -/

/-- `PC <- target` ends the chain of updates of a jump, as `FrameBut.advance` ends that of the others. -/
theorem FrameBut.setPC {fls : List Flag} {rs : List Reg8} {x? : Option Word} {is : List Byte} {s t : State}
    (h : FrameBut fls rs x? is s t) (x : Word) :
    PointersKept s (t.setPC x) ∧ KeptBut fls rs x? is s (t.setPC x) := by
  obtain ⟨-, hkept⟩ := h
  exact hkept

section
variable (s : State) (x : Word) (n : Nat)

theorem branch_pc (taken : Bool) : (s.branch taken x n).pc = if taken then x else s.pcPlus n := by
  cases taken <;> rfl

/-- Taken or not, a branch writes PC alone. -/
theorem branch_kept (taken : Bool) :
    PointersKept s (s.branch taken x n) ∧ KeptBut [] [] none [] s (s.branch taken x n) := by
  cases taken with
  | true => exact (frameBut_refl s).setPC x
  | false => exact (frameBut_refl s).setPC (s.pcPlus n)

/-- A branch whose condition says `P`. -/
theorem branch_of_iff {taken : Bool} {P : Prop} [Decidable P] (h : taken = true ↔ P) :
    let t := s.branch taken x n
    t.pc.toNat = (if P then x.toNat else (s.pc.toNat + n) % 65536) ∧ PointersKept s t ∧
      KeptBut [] [] none [] s t := by
  refine ⟨?_, branch_kept s x n taken⟩
  rw [branch_pc, apply_ite BitVec.toNat, pcPlus_toNat]
  exact if_congr h rfl rfl

end

/-! ## JEXT's condition (R267) -/

/-- The bits of a mask are those of the flags that JEXT can test. -/
theorem eq_iff_jextFlags (v w : BitVec 6) :
    v = w ↔ ∀ fl ∈ jextFlags, v.getLsbD fl.bit = w.getLsbD fl.bit := by
  refine ⟨fun h _ _ => h ▸ rfl, fun h => BitVec.eq_of_getLsbD_eq fun k hk => ?_⟩
  obtain ⟨fl, hfl, rfl⟩ : ∃ fl ∈ jextFlags, fl.bit = k := by
    interval_cases k <;> decide
  exact h fl hfl

/-- The bit of a flag in the low bits of F that the mask selects. -/
theorem getLsbD_low_and_mask (s : State) (mask : BitVec 6) {fl : Flag} (hfl : fl ∈ jextFlags) :
    (s.f.extractLsb' 0 6 &&& mask).getLsbD fl.bit = (s.flag fl && mask.getLsbD fl.bit) := by
  have hbit : ∀ fl ∈ jextFlags, fl.bit < 6 := by decide
  simp [State.flag, flagOf, hbit fl hfl]

theorem jextTaken_allSet (mask : BitVec 6) (s : State) :
    jextTaken .allSet mask s.f = true ↔ JextCondition .allSet mask s := by
  calc jextTaken .allSet mask s.f = true
    _ ↔ s.f.extractLsb' 0 6 &&& mask = mask := beq_iff_eq
    _ ↔ JextCondition .allSet mask s := (eq_iff_jextFlags _ _).trans <| forall₂_congr fun fl hfl => by
      rw [getLsbD_low_and_mask s mask hfl, Bool.and_eq_right_iff_imp]

theorem jextTaken_allClear (mask : BitVec 6) (s : State) :
    jextTaken .allClear mask s.f = true ↔ JextCondition .allClear mask s := by
  calc jextTaken .allClear mask s.f = true
    _ ↔ s.f.extractLsb' 0 6 &&& mask = 0 := beq_iff_eq
    _ ↔ JextCondition .allClear mask s := (eq_iff_jextFlags _ _).trans <| forall₂_congr fun fl hfl => by
      rw [getLsbD_low_and_mask s mask hfl]
      cases s.flag fl <;> simp

/-- Some selected flag is set unless all are clear, and some is clear unless all are set. -/
theorem jextTaken_iff (mode : JextMode) (mask : BitVec 6) (s : State) :
    jextTaken mode mask s.f = true ↔ JextCondition mode mask s := by
  cases mode with
  | allSet => exact jextTaken_allSet mask s
  | allClear => exact jextTaken_allClear mask s
  | anySet =>
    calc jextTaken .anySet mask s.f = true
      _ ↔ ¬ jextTaken .allClear mask s.f = true := bne_iff_ne.trans (not_congr beq_iff_eq.symm)
      _ ↔ ¬ JextCondition .allClear mask s := not_congr (jextTaken_allClear mask s)
      _ ↔ JextCondition .anySet mask s := by simp [JextCondition]
  | anyClear =>
    calc jextTaken .anyClear mask s.f = true
      _ ↔ ¬ jextTaken .allSet mask s.f = true := bne_iff_ne.trans (not_congr beq_iff_eq.symm)
      _ ↔ ¬ JextCondition .allSet mask s := not_congr (jextTaken_allSet mask s)
      _ ↔ JextCondition .anyClear mask s := by simp [JextCondition]

/-! ## Pushes and pops -/

theorem keptBut_refl (s : State) : KeptBut [] [] none [] s s := by
  obtain ⟨-, -, hkept⟩ := frameBut_refl (fls := []) (rs := []) (x? := none) (is := []) s
  exact hkept

theorem KeptBut.push {fls : List Flag} {rs : List Reg8} {x? : Option Word} {is : List Byte} {s t : State}
    (h : KeptBut fls rs x? is s t) (v : Byte) : KeptBut fls rs x? (is ++ [t.sp]) s (t.push v) := by
  obtain ⟨hflags, hregs, hmem, hstack, hown⟩ := h
  exact ⟨hflags, hregs, hmem, hstack.trans (stackKeptBut_push t v), hown⟩

/-- SP and PC are no part of what `KeptBut` speaks of. -/
theorem KeptBut.setSP_setPC {fls : List Flag} {rs : List Reg8} {x? : Option Word} {is : List Byte} {s t : State}
    (h : KeptBut fls rs x? is s t) (p : Byte) (x : Word) :
    KeptBut fls rs x? is s ({ t with sp := p }.setPC x) := h

section
variable (s : State)

/-- The later of two pushes is one cell higher, so it leaves the earlier one's cell. -/
theorem stackRead_push_push (v w : Byte) :
    ((s.push v).push w).stackRead s.sp = v ∧ ((s.push v).push w).stackRead (s.sp + 1) = w := by
  have hne : s.sp ≠ s.sp + 1 := by bv_omega
  refine ⟨?_, (stackRead_push (s.push v) w _).trans (if_pos rfl)⟩
  calc ((s.push v).push w).stackRead s.sp
      = (s.push v).stackRead s.sp := (stackRead_push (s.push v) w s.sp).trans (if_neg hne)
    _ = v := (stackRead_push s v s.sp).trans (if_pos rfl)

theorem sp_sub_one_sub_one : s.sp - 1 - 1 = s.sp - 2 := BitVec.sub_sub s.sp 1 1

theorem popPC_fst_toNat :
    s.popPC.1.toNat = (s.stackRead (s.sp - 2)).toNat * 256 + (s.stackRead (s.sp - 1)).toNat := by
  rw [popPC_eq, joinBytes_toNat, sp_sub_one_sub_one]

theorem popPC_snd_sp_toNat : s.popPC.2.sp.toNat = (s.sp.toNat + 254) % 256 := by
  rw [popPC_eq, sp_sub_one_sub_one, Nat.add_comm]
  exact BitVec.toNat_sub s.sp 2

/-- The discard of RET_I counts on from the two cells popped, modulo 256. -/
theorem popPC_snd_sp_sub_toNat (n : Byte) :
    ((s.popPC.2.sp - n).toNat : Int) = ((s.sp.toNat : Int) - 2 - n.toNat) % 256 := by
  rw [BitVec.toNat_sub, popPC_snd_sp_toNat]
  omega

end

/-! ## The instructions -/

/-- Settles O19: JMP is one write of PC. -/
theorem jmpSetsProgramCounter : Obligations.JmpSetsProgramCounter := by
  unfold Obligations.JmpSetsProgramCounter
  exact ⟨fun _ _ _ => rfl, fun x s => ⟨_, rfl, rfl, (frameBut_refl s).setPC x⟩⟩

/-- Settles O20: each of the six is a branch on its flag, or on the flag's complement. -/
theorem conditionalJumpsTestOneFlag : Obligations.ConditionalJumpsTestOneFlag := by
  unfold Obligations.ConditionalJumpsTestOneFlag
  refine ⟨fun _ _ _ => ⟨rfl, rfl, rfl, rfl, rfl, rfl⟩, fun x s => ?_⟩
  have hset (fl : Flag) := branch_of_iff s x 3 (Iff.refl (s.flag fl = true))
  have hclear (fl : Flag) := branch_of_iff s x 3 (iff_of_eq (Bool.not_eq_true' (s.flag fl)))
  simp only [List.forall_mem_cons]
  exact ⟨⟨_, rfl, hset .z⟩, ⟨_, rfl, hclear .z⟩, ⟨_, rfl, hset .s⟩, ⟨_, rfl, hclear .s⟩, ⟨_, rfl, hset .c⟩,
    ⟨_, rfl, hclear .c⟩, List.forall_mem_nil _⟩

/-- Settles O21: JEXT is a branch on its condition, not taken by the parameter's advance. -/
theorem jextTestsTheMaskedFlags : Obligations.JextTestsTheMaskedFlags := by
  unfold Obligations.JextTestsTheMaskedFlags
  refine ⟨fun mask b2 b3 => ⟨decode_jext .anySet mask b2 b3, decode_jext .allSet mask b2 b3,
    decode_jext .allClear mask b2 b3, decode_jext .anyClear mask b2 b3⟩, fun mode mask x s => ?_⟩
  refine ⟨_, rfl, fun htaken => ?_, fun hnot => ?_, branch_kept s x _ _⟩
  · rw [branch_pc, if_pos ((jextTaken_iff mode mask s).mpr htaken)]
  · rw [branch_pc, if_neg (mt (jextTaken_iff mode mask s).mp hnot), pcPlus_toNat]

/-- Settles O22: the two bytes pushed are those of the address three after PC. -/
theorem callPushesReturnAddressHighByteFirst : Obligations.CallPushesReturnAddressHighByteFirst := by
  unfold Obligations.CallPushesReturnAddressHighByteFirst
  refine ⟨fun _ _ _ => rfl, fun x s => ?_⟩
  obtain ⟨hhigh, hlow⟩ := stackRead_push_push s (hiByte (s.pcPlus 3)) (loByte (s.pcPlus 3))
  refine ⟨_, rfl, rfl, ?_, ?_, ?_, rfl, ((keptBut_refl s).push _).push _⟩
  · rw [← pcPlus_toNat, ← hiByte_toNat]
    exact congrArg BitVec.toNat hhigh
  · rw [← pcPlus_toNat, ← loByte_toNat]
    exact congrArg BitVec.toNat hlow
  · have hsp : s.sp + 1 + 1 = s.sp + 2 := BitVec.add_assoc s.sp 1 1
    exact (congrArg BitVec.toNat hsp).trans (BitVec.toNat_add s.sp 2)

/-- Settles O23: PC is the word popped, and SP is two lower modulo 256. -/
theorem retPopsLowByteThenHighByte : Obligations.RetPopsLowByteThenHighByte := by
  unfold Obligations.RetPopsLowByteThenHighByte
  exact ⟨fun _ _ _ => rfl, fun s => ⟨_, rfl, popPC_fst_toNat s, popPC_snd_sp_toNat s, rfl,
    (keptBut_refl s).setSP_setPC _ _⟩⟩

/-- Settles O24: RET_I lowers the SP that RET leaves, so PC is popped before the discard (D25). -/
theorem retIDiscardsAfterThePops : Obligations.RetIDiscardsAfterThePops := by
  unfold Obligations.RetIDiscardsAfterThePops
  exact ⟨fun _ _ _ => rfl, fun n s => ⟨_, rfl, popPC_fst_toNat s, popPC_snd_sp_sub_toNat s n, rfl,
    (keptBut_refl s).setSP_setPC _ _⟩⟩

end Sys2Proof.Machine
end

section
/-! PROOFS. Scope (spec file 47): the stack instructions (R280 to R284).

PUSH and ENTER write the cell at SP and then move SP up; POP and LEAVE move SP down and read the cell there. Each law
of R284 follows from the statements of the two instructions it runs: the second reads the cell the first wrote. -/

namespace Sys2Proof.Machine

/-! ## A push and a pop -/

section
variable (s : State) (v : Byte)

theorem stackRead_push_sp : (s.push v).stackRead s.sp = v :=
  (stackRead_push s v s.sp).trans (if_pos rfl)

/-- A push changes one cell, and SP, which `KeptBut` does not speak of. -/
theorem keptBut_push {fls : List Flag} {rs : List Reg8} {x? : Option Word} :
    KeptBut fls rs x? [s.sp] s (s.push v) :=
  ⟨fun _ _ => rfl, fun _ _ => rfl, fun _ _ => rfl, stackKeptBut_push s v, rfl, rfl⟩

end

/-- `PC <- next` (R143), where SP or BP moves as well. -/
theorem nextAfter_advance {s t : State} (hpc : t.pc = s.pc) (i : Instr) : NextAfter i s (t.advance i.length) := by
  rw [NextAfter, ← hpc]
  exact pcPlus_toNat t i.length

/-! ## Z and S of the byte moved (D26) -/

theorem FlagsKeptBut.setZS8 {s t : State} (h : FlagsKeptBut [.z, .s] s t) (v : Byte) :
    FlagsKeptBut [.z, .s] s (t.setZS8 v) := by
  intro q hq
  obtain ⟨hz, hs⟩ : q ≠ .z ∧ q ≠ .s := by simpa using hq
  rw [State.flag_setZS8, if_neg hs, if_neg hz, h q hq]

theorem KeptBut.pushFlags {rs : List Reg8} {x? : Option Word} {is : List Byte} {s t : State}
    (h : KeptBut [.z, .s] rs x? is s t) (o : PushSrc) (v : Byte) :
    KeptBut [.z, .s] rs x? is s (t.pushFlags o v) := by
  obtain ⟨hflags, hrest⟩ := h
  cases o with
  | flags => exact ⟨hflags, hrest⟩
  | reg _ | bp | imm _ => exact ⟨hflags.setZS8 v, hrest⟩

theorem zs8Of_pushFlags (s : State) {o : PushSrc} (v : Byte) (ho : o ≠ .flags) : ZS8Of (s.pushFlags o v) v := by
  cases o with
  | flags => exact absurd rfl ho
  | reg _ | bp | imm _ => exact zs8Of_setZS8 _ v

/-! ## The register that POP writes -/

section
variable (s : State) (o : PopDst) (v : Byte)

theorem popHolds_popInto : PopHolds (s.popInto o v) o v := by
  cases o with
  | reg r => exact (reg_setReg s r r v).trans (if_pos rfl)
  | bp | flags => rfl

theorem popInto_bp : (s.popInto o v).bp = if o = .bp then v else s.bp := by
  cases o with
  | reg r => exact s.setReg_bp r v
  | bp | flags => rfl

theorem regsKeptBut_popInto : RegsKeptBut (popRegs o) s (s.popInto o v) := by
  intro q hq
  cases o with
  | reg r =>
    have hne : q ≠ r := by simpa [popRegs] using hq
    exact (reg_setReg s r q v).trans (if_neg hne)
  | bp | flags => rfl

/-- POP FLAGS apart, POP describes the byte by Z and S and writes no other flag. -/
theorem zs8Of_popInto (ho : o ≠ .flags) :
    ZS8Of (s.popInto o v) v ∧ FlagsKeptBut [.z, .s] s (s.popInto o v) := by
  cases o with
  | flags => exact absurd rfl ho
  | bp => exact ⟨zs8Of_setZS8 _ v, FlagsKeptBut.setZS8 (fun _ _ => rfl) v⟩
  | reg r => exact ⟨zs8Of_setZS8 _ v, FlagsKeptBut.setZS8 (fun q _ => s.flag_setReg r v q) v⟩

end

/-! ## The instructions -/

/-- Settles O25: the byte goes to the cell at SP, which moves up after it; Z and S come last. -/
theorem pushWritesOneCellAndIncrementsSP : Obligations.PushWritesOneCellAndIncrementsSP := by
  unfold Obligations.PushWritesOneCellAndIncrementsSP
  refine ⟨fun _ _ _ => ⟨rfl, rfl, rfl, rfl, rfl, rfl, rfl, rfl⟩, fun o s => ?_⟩
  have hcell : ((s.push (s.pushValue o)).pushFlags o (s.pushValue o)).stackRead s.sp = s.pushValue o :=
    (stackRead_congr (State.pushFlags_stack _ o _) s.sp).trans (stackRead_push_sp s _)
  have hsp : (s.sp + 1).toNat = (s.sp.toNat + 1) % 256 := BitVec.toNat_add s.sp 1
  exact ⟨_, rfl, hcell, (congrArg BitVec.toNat (State.pushFlags_sp _ o _)).trans hsp, State.pushFlags_bp _ o _,
    fun ho => zs8Of_pushFlags _ _ ho, fun ho => by subst ho; rfl,
    nextAfter_advance (State.pushFlags_pc _ o _) (.push o), (keptBut_push s _).pushFlags o _⟩

/-- Settles O26: SP moves down first, and the byte it then points at goes to the register. -/
theorem popMovesTheTopByte : Obligations.PopMovesTheTopByte := by
  unfold Obligations.PopMovesTheTopByte
  refine ⟨fun _ _ _ => ⟨rfl, rfl, rfl, rfl, rfl, rfl, rfl⟩, fun o s => ?_⟩
  have hsp : (s.sp - 1).toNat = (s.sp.toNat + 255) % 256 := sub_one_toNat s.sp (by decide)
  have hholds : PopHolds (s.pop.2.popInto o s.pop.1) o (s.stackRead (s.sp - 1)) := popHolds_popInto _ o _
  refine ⟨_, rfl, (congrArg BitVec.toNat (State.popInto_sp _ o _)).trans hsp, ?_, popInto_bp _ o _, ?_,
    zs8Of_popInto _ o _, regsKeptBut_popInto s.pop.2 o _, memKeptBut_of_mem_eq (State.popInto_mem _ o _) none,
    stackKeptBut_of_stack_eq (State.popInto_stack _ o _) [], ownKept_pop_popInto s o _,
    nextAfter_advance (State.popInto_pc _ o _) (.pop o)⟩
  · rintro r rfl
    exact hholds
  · rintro rfl
    exact hholds

/-- Settles O27: ENTER is a push of BP; BP then takes the SP it leaves. -/
theorem enterOpensAFrame : Obligations.EnterOpensAFrame := by
  unfold Obligations.EnterOpensAFrame
  refine ⟨fun _ _ _ => rfl, fun n s => ?_⟩
  have hbp : (s.sp + 1).toNat = (s.sp.toNat + 1) % 256 := BitVec.toNat_add s.sp 1
  have hsp : (s.sp + 1 + n).toNat = (s.sp.toNat + 1 + n.toNat) % 256 := by
    rw [BitVec.toNat_add, hbp, Nat.mod_add_mod]
  exact ⟨_, rfl, stackRead_push_sp s s.bp, hbp, hsp, nextAfter_advance rfl (.enter n), keptBut_push s s.bp⟩

/-- Settles O28: LEAVE pops with SP at BP, so BP takes the cell under BP. -/
theorem leaveClosesAFrame : Obligations.LeaveClosesAFrame := by
  unfold Obligations.LeaveClosesAFrame
  exact ⟨fun _ _ _ => rfl, fun s => ⟨_, rfl, sub_one_toNat s.bp (by decide), rfl, nextAfter_advance rfl .leave,
    keptBut_refl s⟩⟩

/-! ## The stack discipline (R284) -/

theorem f_eq_of_flagsKept {s t : State} (h : FlagsKeptBut [] s t) : t.f = s.f :=
  flags_ext fun q => h q (List.not_mem_nil)

/-- Settles O29: RET reads the two cells that CALL wrote, and SP moves back by two. -/
theorem callThenRetReturnsAfterTheCall : Obligations.CallThenRetReturnsAfterTheCall := by
  unfold Obligations.CallThenRetReturnsAfterTheCall
  intro x s
  obtain ⟨-, hcallRule⟩ := callPushesReturnAddressHighByteFirst
  obtain ⟨-, hretRule⟩ := retPopsLowByteThenHighByte
  obtain ⟨t, hcall, -, hhigh, hlow, htsp, -⟩ := hcallRule x s
  obtain ⟨u, hret, hpc, husp, -⟩ := hretRule t
  have hhighCell : t.sp - 2 = s.sp := by bv_omega
  have hlowCell : t.sp - 1 = s.sp + 1 := by bv_omega
  refine ⟨t, u, hcall, hret, ?_, BitVec.eq_of_toNat_eq ?_⟩
  · rw [hpc, hhighCell, hlowCell, hhigh, hlow, Nat.div_add_mod']
  · omega

/-- Settles O30: LEAVE does not ask where ENTER put SP: BP is one over the cell that holds the old BP. -/
theorem enterThenLeaveRestoresSPAndBP : Obligations.EnterThenLeaveRestoresSPAndBP := by
  unfold Obligations.EnterThenLeaveRestoresSPAndBP
  intro n s
  obtain ⟨-, henterRule⟩ := enterOpensAFrame
  obtain ⟨-, hleaveRule⟩ := leaveClosesAFrame
  obtain ⟨t, henter, hcell, htbp, -, -, htflags, -⟩ := henterRule n s
  obtain ⟨u, hleave, husp, hubp, -, huflags, -⟩ := hleaveRule t
  have hsaved : t.bp - 1 = s.sp := by bv_omega
  refine ⟨t, u, henter, hleave, BitVec.eq_of_toNat_eq (by omega), ?_,
    (f_eq_of_flagsKept huflags).trans (f_eq_of_flagsKept htflags)⟩
  rw [hubp, hsaved, hcell]

/-- Settles O31: SP moves up and down by one, so the POP reads the cell that the PUSH wrote. -/
theorem popGivesBackWhatPushPushed : Obligations.PopGivesBackWhatPushPushed := by
  unfold Obligations.PopGivesBackWhatPushPushed
  intro o o' s
  obtain ⟨-, hpushRule⟩ := pushWritesOneCellAndIncrementsSP
  obtain ⟨-, hpopRule⟩ := popMovesTheTopByte
  obtain ⟨t, hpush, hcell, htsp, -⟩ := hpushRule o s
  obtain ⟨u, hpop, husp, hreg, hbp, hflags, -⟩ := hpopRule o' t
  have htop : t.stackRead (t.sp - 1) = s.pushValue o := by
    have hindex : t.sp - 1 = s.sp := by bv_omega
    rw [hindex, hcell]
  rw [htop] at hreg hbp hflags
  refine ⟨t, u, hpush, hpop, ?_, BitVec.eq_of_toNat_eq (by omega)⟩
  cases o' with
  | reg r => exact hreg r rfl
  | bp => exact hbp
  | flags => exact hflags rfl

end Sys2Proof.Machine
end

section
/-! PROOFS. Scope (spec file 48): the system instructions (R300, R302 to R307). -/

namespace Sys2Proof.Machine

theorem decode_unassigned {op : Byte} (hop : op ∈ unassignedOpcodes) (b1 b2 b3 : Byte) :
    decode op b1 b2 b3 = .unassigned op :=
  decode_of_encode_isPrefix (List.contains_iff_mem.mpr hop) (List.prefix_append [op] [b1, b2, b3])

/-- Settles O32: both answer the state with PC moved on by their length, which is 1. -/
theorem noopAndUnassignedOpcodesOnlyAdvance : Obligations.NoopAndUnassignedOpcodesOnlyAdvance := by
  unfold Obligations.NoopAndUnassignedOpcodesOnlyAdvance
  exact ⟨fun _ _ _ => rfl, fun _ hop => decode_unassigned hop, fun _ => rfl, fun _ _ _ => rfl⟩

/-- What EI, DI, ET and DT have in common: one flag is written, and PC moves on. -/
theorem setFlag_frame (s : State) (p : Flag) (v : Bool) (i : Instr) :
    let t := (s.setFlag p v).advance i.length
    t.flag p = v ∧ NextAfter i s t ∧ PointersKept s t ∧ KeptBut [p] [] none [] s t :=
  ⟨(State.flag_setFlag s p p v).trans (if_pos rfl), ((frameBut_refl s).setFlag p v).advance i⟩

/-- Settles O34: each of the four is one `setFlag`, of I or of T. -/
theorem flagInstructionsWriteOneFlag : Obligations.FlagInstructionsWriteOneFlag := by
  unfold Obligations.FlagInstructionsWriteOneFlag
  refine ⟨fun _ _ _ => ⟨rfl, rfl, rfl, rfl⟩, fun s => ?_⟩
  simp only [List.forall_mem_cons]
  exact ⟨⟨_, rfl, setFlag_frame s .i true .ei⟩, ⟨_, rfl, setFlag_frame s .i false .di⟩,
    ⟨_, rfl, setFlag_frame s .t true .et⟩, ⟨_, rfl, setFlag_frame s .t false .dt⟩, List.forall_mem_nil _⟩

theorem memRead_resetAll (s : State) (x : Word) :
    s.resetAll.memRead x = if s.params.resetClearsMemory then 0 else s.memRead x := by
  rw [State.memRead, State.resetAll_mem]
  split <;> rfl

/-- Settles O35: but for MEM, RESET leaves the state that INIT does, whatever the parameters are. -/
theorem resetReinitializesForEveryParameter : Obligations.ResetReinitializesForEveryParameter := by
  unfold Obligations.ResetReinitializesForEveryParameter
  exact ⟨fun _ _ _ => rfl, fun s => ⟨_, rfl, rfl, rfl, initial_reg s.params s.draws, initial_flag s.params s.draws,
    rfl, rfl, fun _ => rfl, memRead_resetAll s, rfl, rfl⟩⟩

end Sys2Proof.Machine
end

section
/-! PROOFS. Scope (spec file 70): the executable in MEM (R353).

LOAD places byte `k` of the image at address `k`, and the image has PROGRAM_START bytes before the code, so the code
begins where INIT sets PC. An executable that fits never wraps to address 0. -/

namespace Sys2Proof.Machine

theorem length_image (p : Params) (a : Assembled) :
    (a.image p).length = p.programStart.toNat + a.code.length := by
  rw [Assembled.image, List.length_append, List.length_replicate]

theorem getElem?_image_programStart_add (p : Params) (a : Assembled) (k : Nat) :
    (a.image p)[p.programStart.toNat + k]? = a.code[k]? := by
  simp [Assembled.image, List.getElem?_append_right]

/-- Settles O58: the fetch at PC + k reads the byte of the image behind the zeros and `k` bytes of code. -/
theorem loadedExecutableStartsAtProgramStart : Obligations.LoadedExecutableStartsAtProgramStart := by
  unfold Obligations.LoadedExecutableStartsAtProgramStart
  intro s a hfit
  obtain ⟨hload, -⟩ := hostLoadCopiesBytesFromAddressZero (a.image s.params) s.hostInit
  obtain ⟨t, hnext, hmem, hpc, -⟩ := hload (by rwa [length_image])
  have hstart : t.pc = s.params.programStart := hpc
  refine ⟨t, hnext, hstart, fun k hk => ?_⟩
  have haddr : (t.pcPlus k).toNat = s.params.programStart.toNat + k := by
    rw [pcPlus_toNat, hstart]
    exact Nat.mod_eq_of_lt (by omega)
  rw [State.fetch8, hmem, haddr, getElem?_image_programStart_add, List.getElem?_eq_getElem hk, Option.getD_some]

end Sys2Proof.Machine
end
